-- ==== Sys2Proof/Word.lean ====
section
/-! DEFINITION. The words of the block: bytes, 64-bit data, and the 80-bit command word. -/

namespace Sys2Proof

/-- A byte: one element of `WBUF`, `RBUF`, `IN` or `OUT`, and one colour channel (00_scope R5 `CHAN_W`). -/
abbrev Byte := BitVec 8

/-- A 64-bit datum: the operand of `write`, the result of `read`, the register `RES` (00_scope R5 `VALUE_W`). -/
abbrev U64 := BitVec 64

/-- A 16-bit image dimension (00_scope R5 `DIM_W`). -/
abbrev Dim := BitVec 16

/-- A 4-bit channel width, as the descriptor registers and the header hold it (00_scope R5 `QFIELD_W`). -/
abbrev Nibble := BitVec 4

/-- A command word: `op = cmd[79:72]`, `a = cmd[71:64]`, `d = cmd[63:0]` (30_encoding R90). -/
abbrev CmdWord := BitVec 80

end Sys2Proof
end

