-- ==== Sys2Proof/Config.lean ====
section
/-! DEFINITION. The implementation parameters as one record (00_scope R5; 10_state R29), and the free values.
The values this hardware takes are `Sys2Proof.Machine.config` in Machine/Ops.lean. -/

namespace Sys2Proof

/-- `HDR_PAD_BITS`: 0 or 4 pad bits between the descriptor and the pixel data (30_encoding R85; 93 U12). -/
inductive HdrPad where
  /-- 0 bits: pixel data starts at stream bit 108. -/
  | unpadded
  /-- 4 bits: pixel data starts at stream bit 112. -/
  | nibble
deriving DecidableEq, Repr

/-- The configuration parameters a model takes as arguments (00_scope R5; 92 D4, D5, D17). -/
structure Config where
  /-- `MAGIC`, the 64-bit constant at the start of a stream (30_encoding R81). -/
  magic : U64
  /-- `HDR_PAD_BITS` (30_encoding R85). -/
  hdrPad : HdrPad
  /-- `Q0_CONST`, what a channel of width 0 decodes to (42 R152). -/
  q0Const : Byte
deriving DecidableEq, Repr

/-- FREE VALUE (log 7): what `BSW.POS` returns for a cursor of `2^64` or more, which "is outside the model"
(40 R115, 92 D15). A function of the cursor, without a body. -/
opaque Config.writerPosBeyond : Nat → U64

/-- FREE VALUE (log 7): what `BSR.POS` returns for a cursor of `2^64` or more (41 R134, 92 D15). -/
opaque Config.readerPosBeyond : Nat → U64

end Sys2Proof
end

