-- ==== Sys2Proof/Machine/State.lean ====
section
/-! DEFINITION. The architectural state of the block (10_state R20 to R38), as plain data, and its value after reset. -/

namespace Sys2Proof.Machine

/-- A pixel: "three independent 8-bit unsigned channel values (r, g, b)" (10_state R25). -/
structure Rgb where
  r : Byte
  g : Byte
  b : Byte
deriving DecidableEq, Repr

/-- A quantization descriptor: three 4-bit channel widths, legal values 0 to 8 (10_state R24, R26). -/
structure Descriptor where
  r : Nibble
  g : Nibble
  b : Nibble
deriving DecidableEq, Repr

/-- `W.mode` (10_state R20). -/
inductive WriterMode where
  /-- `OPEN`. -/
  | opened
  /-- `CONSUMED`, after `finalize`. -/
  | consumed
deriving DecidableEq, Repr

/-- The bit-stream writer (10_state R20, R21). -/
structure Writer where
  /-- `W.buf`, the space `WBUF`. -/
  buf : List Byte
  /-- `W.cur`, the count of bits written so far. -/
  cur : Nat
  /-- `W.mode`. -/
  mode : WriterMode
deriving DecidableEq, Repr

/-- The bit-stream reader (10_state R22, R23). -/
structure Reader where
  /-- `R.buf`, the space `RBUF`. -/
  buf : List Byte
  /-- `R.cur`, the stream position of the next bit to extract. -/
  cur : Nat
  /-- `R.bound`. -/
  bound : Bool
deriving DecidableEq, Repr

/-- The content of the image store (10_state R26), without `IMG.valid`. -/
structure Image where
  width : Dim
  height : Dim
  q : Descriptor
  /-- `IMG.pix`, the space `PIX`, row-major. -/
  pix : List Rgb
deriving DecidableEq, Repr

/-- The failures of 60_exceptions R220, in the order of their codes. -/
inductive Failure where
  | invalidDimensions
  | invalidQuantization
  | pixelCountMismatch
  | magicMismatch
  | truncatedData
  /-- Never raised by the block: a collaborator's failure, its code reserved (R226). -/
  | ioError
  /-- Never raised by the block: a collaborator's failure, its code reserved (R226). -/
  | unsupportedFormat
deriving DecidableEq, Repr

/-- What `ST` holds: the result kind of the last command that ended in `ok` or `fail` (10_state R33). -/
inductive Status where
  | ok
  | failed (f : Failure)
deriving DecidableEq, Repr

/-- The causes of an abort (60_exceptions R227), in the order of their codes. -/
inductive AbortCause where
  | illegalCmd
  | badWidth
  | valueTooWide
  | writerConsumed
  | readerUnbound
  | badBits
  | indexTooWide
  | noImage
deriving DecidableEq, Repr

/-- The result of a command (00_scope R10). -/
inductive Result where
  /-- `ok` with no value. -/
  | ok
  /-- `ok(v)`, a `u64`. -/
  | okValue (v : U64)
  /-- `ok(v)`, a byte sequence. -/
  | okBytes (bytes : List Byte)
  /-- `ok(v)`, a sequence of `Rgb`. -/
  | okColors (colors : List Rgb)
  /-- `ok(v)`, a sequence of `(x, y, Rgb)`. -/
  | okPixels (pixels : List (Nat × Nat × Rgb))
  /-- `fail(F)`. -/
  | fail (f : Failure)
  /-- `abort(C)`. -/
  | abort (c : AbortCause)
deriving DecidableEq, Repr

/-- The registers the host reads (10_state R32, R33, R34). -/
inductive HostReg where
  | res
  | out
  | st
  | abortSet
  | abortCause
deriving DecidableEq, Repr

/-- What the block hands the host in one step: a command's result, or what a host read answers. -/
inductive Reply where
  | result (r : Result)
  /-- `RES`. -/
  | res (v : U64)
  /-- `OUT`. -/
  | out (bytes : List Byte)
  /-- `ST`, as its code. -/
  | st (code : Nat)
  /-- `ABORT.set`. -/
  | abortSet (set : Bool)
  /-- `ABORT.cause`, as its code. -/
  | abortCause (code : Nat)
deriving DecidableEq, Repr

/-- What the host does next. -/
inductive HostAction where
  /-- Issue a command word (00_scope R10; 30_encoding R90). -/
  | command (w : CmdWord)
  /-- Fill `IN` (10_state R30). -/
  | fillIn (bytes : List Byte)
  /-- Fill `PIXIN` (10_state R30). -/
  | fillPixin (pixels : List Rgb)
  /-- Read a result register (10_state R32 to R34). -/
  | readReg (r : HostReg)
  /-- Apply reset (70 R260). -/
  | reset
deriving DecidableEq, Repr

/-- The machine. -/
structure State where
  /-- The bit-stream writer, `W`. -/
  w : Writer
  /-- The bit-stream reader, `R`. -/
  r : Reader
  /-- The quantizer's descriptor, `Q.r`, `Q.g`, `Q.b` (10_state R24). -/
  q : Descriptor
  /-- `Q.valid`. -/
  qValid : Bool
  /-- The image store, `IMG.width`, `IMG.height`, `IMG.q`, `IMG.pix` (10_state R26). -/
  img : Image
  /-- `IMG.valid`. -/
  imgValid : Bool
  /-- `RES` (10_state R32). -/
  res : U64
  /-- `RES.valid`. -/
  resValid : Bool
  /-- `OUT` (10_state R32). -/
  out : List Byte
  /-- `OUT.valid`. -/
  outValid : Bool
  /-- `ST` (10_state R33). -/
  st : Status
  /-- `ABORT.set` (10_state R34). -/
  abortSet : Bool
  /-- `ABORT.cause` (10_state R34). -/
  abortCause : AbortCause
  /-- The host's byte staging buffer `IN` (10_state R30). -/
  inBuf : List Byte
  /-- The host's pixel staging buffer `PIXIN` (10_state R30). -/
  pixin : List Rgb
  /-- The MODEL's own: the host's actions still to come, the next one first (log 2). -/
  host : List HostAction
  /-- The MODEL's own: what the last step handed the host (log 3). -/
  reply : Option Reply
deriving DecidableEq, Repr

/-- Why a step stops. Each is raised by a host read only (`hostRead` in Machine/Port.lean), never by a command. -/
inductive Fault where
  /-- The host reads `RES` while `RES.valid = 0`: "a model faults the read" (10_state R32). Safe. -/
  | resInvalid
  /-- The host reads `OUT` while `OUT.valid = 0` (93 U16: "`fault` on read"). Safe. -/
  | outInvalid
  /-- The host reads `ABORT.cause` while `ABORT.set = 0` (93 U16). Safe. -/
  | abortCauseInvalid
deriving DecidableEq, Repr

/-- Why a command has no meaning. -/
inductive Refusal where
  /-- Raised by `exec` alone, for a command whose arm has no meaning yet; no arm of this model answers it. Safe. -/
  | notModelled (mnemonic : String)
deriving DecidableEq, Repr

/-- A writer that has written nothing: the reset value and what `BSW.INIT` makes (10_state R38; 40 R110). -/
def Writer.fresh : Writer := { buf := [], cur := 0, mode := .opened }

/-- The machine right after reset (10_state R38; 70 R260 to R262).
DESIGN CHOICE, unsafe (log 5): `q`, `img`, `res`, `out`, `abortCause`, which the spec leaves unspecified behind a clear
valid flag. DESIGN CHOICE, unsafe (log 6): `inBuf`, `pixin`, which the host owns. -/
def State.reset : State where
  w := Writer.fresh
  r := { buf := [], cur := 0, bound := false }
  q := { r := 0, g := 0, b := 0 }
  qValid := false
  img := { width := 0, height := 0, q := { r := 0, g := 0, b := 0 }, pix := [] }
  imgValid := false
  res := 0
  resValid := false
  out := []
  outValid := false
  st := .ok
  abortSet := false
  abortCause := .illegalCmd
  inBuf := []
  pixin := []
  host := []
  reply := none

end Sys2Proof.Machine
end

