-- ==== Sys2Proof/Machine/Flags.lean ====
section
/-! DEFINITION. Result codes, and what the end of a command does to `RES`, `OUT` and `ST` (10_state R32, R33;
60_exceptions R220, R227, R230). -/

namespace Sys2Proof.Machine

/-- The code `ST` takes on a failure (60_exceptions R220). -/
def Failure.code : Failure → Nat
  | .invalidDimensions => 1
  | .invalidQuantization => 2
  | .pixelCountMismatch => 3
  | .magicMismatch => 4
  | .truncatedData => 5
  | .ioError => 6
  | .unsupportedFormat => 7

/-- `ST` as a number: 0 for `ok`, the failure's code otherwise (10_state R33). -/
def Status.code : Status → Nat
  | .ok => 0
  | .failed f => f.code

/-- `ABORT.cause` as a number (60_exceptions R227). -/
def AbortCause.code : AbortCause → Nat
  | .illegalCmd => 1
  | .badWidth => 2
  | .valueTooWide => 3
  | .writerConsumed => 4
  | .readerUnbound => 5
  | .badBits => 6
  | .indexTooWide => 7
  | .noImage => 8

/-- Hand the host a command's result. -/
def State.answer (s : State) (r : Result) : State :=
  { s with reply := some (.result r) }

/-- End in `ok` with the result `r`, which is no `u64`: `RES.valid <- 0`, `ST <- 0` (10_state R32, R33). -/
def State.finish (s : State) (r : Result) : State :=
  { s with resValid := false, st := .ok, reply := some (.result r) }

/-- End in `ok(v)` with `v` a `u64`: `RES <- v`, `RES.valid <- 1`, `ST <- 0` (10_state R32, R33). -/
def State.finishValue (s : State) (v : U64) : State :=
  { s with res := v, resValid := true, st := .ok, reply := some (.result (.okValue v)) }

/-- End in `ok(bytes)`: `OUT <- bytes`, `OUT.valid <- 1`, `RES.valid <- 0`, `ST <- 0` (10_state R32, R33). -/
def State.finishBytes (s : State) (bytes : List Byte) : State :=
  { s with out := bytes, outValid := true, resValid := false, st := .ok, reply := some (.result (.okBytes bytes)) }

/-- End in `fail(F)`: `ST <-` the code of `F`, `RES.valid <- 0`, `OUT` as it was (60_exceptions R230). -/
def State.failWith (s : State) (f : Failure) : State :=
  { s with resValid := false, st := .failed f, reply := some (.result (.fail f)) }

end Sys2Proof.Machine
end

