-- ==== Sys2Proof/Machine/Operands.lean ====
section
/-! DEFINITION. The operand checks of the commands: the contract conditions of 60_exceptions R227 and the conditions of
the failures of R221 to R223. -/

namespace Sys2Proof.Machine

/-- The width operand of `BSW.WRITE` and `BSR.READ` is in 1..64 (20_memory R58). -/
def widthInRange (w : Byte) : Bool := 1 ≤ w.toNat && w.toNat ≤ 64

/-- `v < 2^w` (40 R111). -/
def valueFits (w : Byte) (v : U64) : Bool := v.toNat < 2 ^ w.toNat

/-- The `bits_x` operand of `Q.ENC` and `Q.DEC` is in 0..8 (42 R151, R152). -/
def bitsInRange (bits : Byte) : Bool := bits.toNat ≤ 8

/-- `index < 2^bits_x` (42 R152). -/
def indexFits (bits index : Byte) : Bool := index.toNat < 2 ^ bits.toNat

/-- No 8-bit channel width is above 8 (42 R150; 44 R200). -/
def channelWidthsLegal (r g b : Byte) : Bool := r.toNat ≤ 8 && g.toNat ≤ 8 && b.toNat ≤ 8

/-- Neither dimension is 0 (60_exceptions R221). -/
def dimensionsLegal (width height : Dim) : Bool := width != 0 && height != 0

/-- The descriptor of three channel widths, `r[3:0]`, `g[3:0]`, `b[3:0]` (42 R150; 44 R200). -/
def descriptorOf (r g b : Byte) : Descriptor :=
  { r := r.setWidth 4, g := g.setWidth 4, b := b.setWidth 4 }

/-- No component of the descriptor is above 8 (10_state R24; 30_encoding R83). -/
def Descriptor.legal (q : Descriptor) : Bool := q.r.toNat ≤ 8 && q.g.toNat ≤ 8 && q.b.toNat ≤ 8

/-- `bits_r + bits_g + bits_b`, the stream bits of one pixel (30_encoding R85). -/
def Descriptor.pixelBits (q : Descriptor) : Nat := q.r.toNat + q.g.toNat + q.b.toNat

/-- `width * height`, the exact product (00_scope R9; 43 R179). -/
def pixelCount (width height : Dim) : Nat := width.toNat * height.toNat

end Sys2Proof.Machine
end

