-- ==== Sys2Proof/Machine/Ops.lean ====
section
/-! DEFINITION. The shared operations: the bit streams of the writer and the reader, the quantizer's two functions,
and how a command begins, aborts and is renewed by reset. -/

namespace Sys2Proof.Machine

/-- The parameters of this hardware (00_scope R5). `MAGIC`, `HDR_PAD_BITS` and `Q0_CONST` are literals the spec holds
unaudited: UNVERIFIED, unsafe (log 8, 9, 10). -/
def config : Config where
  magic := 0x67726E666C643432
  hdrPad := .unpadded
  q0Const := 127

/-- `HDR_PAD_BITS` as a number (30_encoding R85). -/
def hdrPadBits : HdrPad → Nat
  | .unpadded => 0
  | .nibble => 4

/-- `HDR_BITS`: the stream bit at which pixel data starts, 108, or 112 with the pad (00_scope R5; 30_encoding R85). -/
def headerBits (c : Config) : Nat := 64 + 16 + 16 + 4 + 4 + 4 + hdrPadBits c.hdrPad

/-! ## Bits of a stream -/

/-- `bitlen(buf) = 8 * len(buf)` (00_scope R7). -/
def bitlen (buf : List Byte) : Nat := 8 * buf.length

/-- `sbit(buf, k) = buf[k div 8][7 - (k mod 8)]` (00_scope R7; 20_memory R54). Beyond the buffer, which no command
reads (41 R132), it is false (log 15). -/
def sbit (buf : List Byte) (k : Nat) : Bool := (buf.getD (k / 8) 0).getLsbD (7 - k % 8)

/-- `ceil(n / 8)` (00_scope R9). -/
def bytesFor (n : Nat) : Nat := (n + 7) / 8

/-- A bit as a byte. -/
def bitByte (bit : Bool) : Byte := (BitVec.ofBool bit).setWidth 8

/-- Write one bit at stream position `k`: append a fresh zero byte when `k mod 8 = 0`, then OR the bit in
(the body of 40 R111's loop). -/
def putBit (buf : List Byte) (k : Nat) (bit : Bool) : List Byte :=
  (if k % 8 = 0 then buf ++ [0] else buf).modify (k / 8) fun B => B ||| (bitByte bit <<< (7 - k % 8))

/-- Write the low `n` bits of `v` from stream position `k` on, the most significant of them first (the loop of 40
R111, with `n` the bits still to write). -/
def putBits (v : U64) : (n : Nat) → (k : Nat) → List Byte → List Byte
  | 0, _, buf => buf
  | n + 1, k, buf => putBits v n (k + 1) (putBit buf k (v.getLsbD n))

/-- Read `n` bits from stream position `k` on, shifting each into `val` (the loop of 41 R131, with `n` the bits still
to read). -/
def getBits (buf : List Byte) : (n : Nat) → (k : Nat) → (val : U64) → U64
  | 0, _, val => val
  | n + 1, k, val => getBits buf n (k + 1) ((val <<< 1) ||| (BitVec.ofBool (sbit buf k)).setWidth 64)

/-! ## The writer and the reader -/

/-- Append a field of width `n` (40 R111, after its checks). -/
def Writer.put (w : Writer) (n : Nat) (v : U64) : Writer :=
  { w with buf := putBits v n w.cur w.buf, cur := w.cur + n }

/-- Finalize: the writer is consumed; the pad bits are already 0 (40 R113; 10_state R21). -/
def Writer.finalize (w : Writer) : Writer := { w with mode := .consumed }

/-- One byte of `WBUF`, none where the buffer has none (20_memory R50). -/
def Writer.byteAt (w : Writer) (a : Nat) : Option Byte := w.buf[a]?

/-- A reader bound to a copy of `bytes`, its cursor at the start (41 R130). -/
def Reader.bindTo (bytes : List Byte) : Reader := { buf := bytes, cur := 0, bound := true }

/-- Fewer than `n` bits remain (41 R132). -/
def Reader.short (r : Reader) (n : Nat) : Bool := bitlen r.buf < r.cur + n

/-- The next `n` bits as a number (41 R131; 30_encoding R84). -/
def Reader.field (r : Reader) (n : Nat) : U64 := getBits r.buf n r.cur 0

/-- Move the cursor past `n` bits (41 R131). -/
def Reader.advance (r : Reader) (n : Nat) : Reader := { r with cur := r.cur + n }

/-- One byte of `RBUF`, none where the buffer has none (20_memory R51). -/
def Reader.byteAt (r : Reader) (a : Nat) : Option Byte := r.buf[a]?

/-- One element of `PIX`, none where the buffer has none (20_memory R52). -/
def Image.pixelAt (img : Image) (i : Nat) : Option Rgb := img.pix[i]?

/-! ## The quantizer -/

/-- `encode(value, bits_x)`: the top `bits` bits of the value (42 R151). -/
def enc (value : Byte) (bits : Nat) : Byte := if bits = 0 then 0 else value >>> (8 - bits)

/-- `decode(index, bits_x)`: the midpoint of the index's interval (42 R152). -/
def dec (c : Config) (index : Byte) (bits : Nat) : Byte :=
  if bits = 0 then c.q0Const
  else if bits = 8 then index
  else (index <<< (8 - bits)) ||| (1 <<< (7 - bits))

/-! ## How a command begins and ends abnormally -/

/-- Taking an abort: `ABORT.set <- 1`, `ABORT.cause <-` the cause, `RES.valid <- 0`, "leaves `ST` and everything else as
it was, and returns `abort(cause)`" (60_exceptions R227). A next state, not a stop (log 1). -/
def State.takeAbort (s : State) (c : AbortCause) : State :=
  { s with abortSet := true, abortCause := c, resValid := false, reply := some (.result (.abort c)) }

/-- Every command first checks `ABORT.set`: while it is 1 the command "returns `abort(ABORT.cause)` and changes
nothing" (10_state R34; 60_exceptions R229). -/
def State.unlessAborted (s : State) (body : State → State) : State :=
  if s.abortSet then s.answer (.abort s.abortCause) else body s

/-- A contract check: go on if the condition holds, else take the abort (60_exceptions R227). -/
def State.require (s : State) (holds : Bool) (c : AbortCause) (body : State → State) : State :=
  if holds then body s else s.takeAbort c

/-- A failure check: go on if the condition holds, else end in `fail(F)` (60_exceptions R230). -/
def State.check (s : State) (holds : Bool) (f : Failure) (body : State → State) : State :=
  if holds then body s else s.failWith f

/-- The only way on after an abort: reset puts every piece of state at its reset value, but not the host's staging
buffers (70 R260, R263), nor the host's own actions still to come. -/
def State.applyReset (s : State) : State :=
  { State.reset with inBuf := s.inBuf, pixin := s.pixin, host := s.host }

end Sys2Proof.Machine
end

