-- ==== Sys2Proof/Machine/Codec.lean ====
section
/-! DEFINITION. The frame codec: the serialize and deserialize sequences (43 R171, R175) over the writer and the
reader, and the commands `FRM.SER` and `FRM.DES`. -/

namespace Sys2Proof.Machine

/-- An Image is present, else `abort NO_IMAGE` (43 R170; 44 R202 to R204). -/
def State.ifImage (s : State) (body : State → State) : State :=
  s.require s.imgValid .noImage body

/-- `[ IMG.pix[i] for i in 0 .. width*height - 1 ]`, row-major (44 R202). The invariant of 10_state R27 makes this the
whole of `IMG.pix`; in a state no run reaches it is as much of it as there is (log 15). -/
def Image.colors (img : Image) : List Rgb := img.pix.take (pixelCount img.width img.height)

/-! ## Serialize -/

/-- One channel of a pixel: no write at all when its width is 0 (43 R172). -/
def putChannel (bits : Nat) (value : Byte) (w : Writer) : Writer :=
  if bits = 0 then w else w.put bits ((enc value bits).setWidth 64)

/-- The three channels of a pixel, r then g then b (43 R171). -/
def putPixel (q : Descriptor) (w : Writer) (p : Rgb) : Writer :=
  putChannel q.b.toNat p.b (putChannel q.g.toNat p.g (putChannel q.r.toNat p.r w))

/-- The pad between the descriptor and the pixel data, if configured (30_encoding R85). -/
def putHeaderPad (c : Config) (w : Writer) : Writer :=
  match c.hdrPad with
  | .unpadded => w
  | .nibble => w.put 4 0

/-- The header schema: magic, width, height, bits_r, bits_g, bits_b (30_encoding R89; 43 R171). -/
def putHeader (c : Config) (img : Image) (w : Writer) : Writer :=
  putHeaderPad c <|
    (((((w.put 64 c.magic).put 16 (img.width.setWidth 64)).put 16 (img.height.setWidth 64)).put 4
      (img.q.r.setWidth 64)).put 4 (img.q.g.setWidth 64)).put 4 (img.q.b.setWidth 64)

/-- The writer after the serialize sequence, before it is finalized (43 R171). -/
def serializeWriter (c : Config) (img : Image) : Writer :=
  img.colors.foldl (putPixel img.q) (putHeader c img Writer.fresh)

/-- `serialize : Image -> Bytes` (43 R171). -/
def serialize (c : Config) (img : Image) : List Byte := (serializeWriter c img).buf

/-- The effect of `FRM.SER`: the block's own writer runs the sequence and is left consumed, the bytes are in `OUT`
(43 R170). -/
def State.serializeImage (s : State) : State :=
  { s with w := (serializeWriter config s.img).finalize }.finishBytes (serialize config s.img)

/-! ## Deserialize -/

/-- A stretch of the deserialize sequence: the reader it leaves, and a value or the failure that ends the command. -/
abbrev Parse (α : Type) := Reader → Reader × Except Failure α

/-- A value that takes no bits. -/
def parsePure {α : Type} (a : α) : Parse α := fun r => (r, .ok a)

/-- One stretch after another; the first failure ends the sequence (43 R178). -/
def parseThen {α β : Type} (p : Parse α) (f : α → Parse β) : Parse β := fun r =>
  match p r with
  | (r', .ok a) => f a r'
  | (r', .error e) => (r', .error e)

/-- `raise F` unless the condition holds. -/
def parseGuard (holds : Bool) (f : Failure) : Parse Unit := fun r =>
  if holds then (r, .ok ()) else (r, .error f)

/-- `BSR.READ n` inside the sequence: "a failed read at any point: raise TruncatedData" (43 R175), the cursor left where
it was (41 R132). -/
def parseField (n : Nat) : Parse U64 := fun r =>
  if r.short n then (r, .error .truncatedData) else (r.advance n, .ok (r.field n))

/-- The magic field and its check (43 R175). -/
def parseMagic (c : Config) : Parse Unit :=
  parseThen (parseField 64) fun m => parseGuard (m == c.magic) .magicMismatch

/-- Both dimensions are read before either is tested (43 R175). -/
def parseDimensions : Parse (Dim × Dim) :=
  parseThen (parseField 16) fun w => parseThen (parseField 16) fun h =>
    parseThen (parseGuard (dimensionsLegal (w.setWidth 16) (h.setWidth 16)) .invalidDimensions) fun _ =>
      parsePure (w.setWidth 16, h.setWidth 16)

/-- The pad after the `bits_b` field, if configured: read and ignored (30_encoding R85). -/
def parseHeaderPad (c : Config) : Parse Unit :=
  match c.hdrPad with
  | .unpadded => parsePure ()
  | .nibble => parseThen (parseField 4) fun _ => parsePure ()

/-- All three nibbles are read before any is tested (43 R175). -/
def parseDescriptor (c : Config) : Parse Descriptor :=
  parseThen (parseField 4) fun r => parseThen (parseField 4) fun g => parseThen (parseField 4) fun b =>
    parseThen (parseHeaderPad c) fun _ =>
      parseThen (parseGuard (Descriptor.legal ⟨r.setWidth 4, g.setWidth 4, b.setWidth 4⟩) .invalidQuantization) fun _ =>
        parsePure ⟨r.setWidth 4, g.setWidth 4, b.setWidth 4⟩

/-- One channel of a pixel: no read at all when its width is 0, its index then 0 (43 R172). -/
def parseChannel (c : Config) (bits : Nat) : Parse Byte :=
  if bits = 0 then parsePure (dec c 0 0)
  else parseThen (parseField bits) fun i => parsePure (dec c (i.setWidth 8) bits)

/-- The three channels of a pixel, r then g then b (43 R175). -/
def parsePixel (c : Config) (q : Descriptor) : Parse Rgb :=
  parseThen (parseChannel c q.r.toNat) fun r => parseThen (parseChannel c q.g.toNat) fun g =>
    parseThen (parseChannel c q.b.toNat) fun b => parsePure ⟨r, g, b⟩

/-- `n` pixels, in order (43 R175, R178). -/
def parsePixels (c : Config) (q : Descriptor) : Nat → Parse (List Rgb)
  | 0 => parsePure []
  | n + 1 => parseThen (parsePixel c q) fun p => parseThen (parsePixels c q n) fun ps => parsePure (p :: ps)

/-- The deserialize sequence after the bind (43 R175). -/
def parseImage (c : Config) : Parse Image :=
  parseThen (parseMagic c) fun _ => parseThen parseDimensions fun wh => parseThen (parseDescriptor c) fun q =>
    parseThen (parsePixels c q (pixelCount wh.1 wh.2)) fun pix =>
      parsePure { width := wh.1, height := wh.2, q := q, pix := pix }

/-- `deserialize(bytes)`: the reader it leaves, and an Image or a failure (43 R174, R175). -/
def deserialize (c : Config) (bytes : List Byte) : Reader × Except Failure Image :=
  parseImage c (Reader.bindTo bytes)

/-- The effect of `FRM.DES`: the Image replaced on success; on failure the image store as it was (43 R174, R176).
Either way the reader is left where the sequence left it. -/
def State.deserializeInput (s : State) : State :=
  match deserialize config s.inBuf with
  | (r, .ok img) => { s with r := r, img := img, imgValid := true }.finish .ok
  | (r, .error f) => { s with r := r }.failWith f

/-! ## The commands -/

/-- `FRM.SER` (43 R170). -/
def execFrmSer (s : State) : Host.Outcome State Fault Refusal :=
  .next (s.unlessAborted fun s => s.ifImage fun s => s.serializeImage)

/-- `FRM.DES` (43 R174). -/
def execFrmDes (s : State) : Host.Outcome State Fault Refusal :=
  .next (s.unlessAborted fun s => s.deserializeInput)

end Sys2Proof.Machine
end

