-- ==== Sys2Proof/Machine/Image.lean ====
section
/-! DEFINITION. Image construction and the three read views (44_image.md). -/

namespace Sys2Proof.Machine

/-- `IMG.NEW width, height, r, g, b`: the three checks in order, then a copy of `PIXIN` (44 R200). -/
def execImgNew (width height : Dim) (r g b : Byte) (s : State) : Host.Outcome State Fault Refusal :=
  .next (s.unlessAborted fun s =>
    s.check (dimensionsLegal width height) .invalidDimensions fun s =>
    s.check (channelWidthsLegal r g b) .invalidQuantization fun s =>
    s.check (s.pixin.length == pixelCount width height) .pixelCountMismatch fun s =>
      { s with
        img := { width := width, height := height, q := descriptorOf r g b, pix := s.pixin }
        imgValid := true }.finish .ok)

/-- Number a row-major pixel list from index `i` on: `(i mod width, i div width, pixel)` (44 R203). -/
def locate (width : Nat) : (i : Nat) → List Rgb → List (Nat × Nat × Rgb)
  | _, [] => []
  | i, p :: ps => (i % width, i / width, p) :: locate width (i + 1) ps

/-- `[ (i mod width, i div width, IMG.pix[i]) for i in 0 .. width*height - 1 ]` (44 R203). -/
def Image.pixels (img : Image) : List (Nat × Nat × Rgb) := locate img.width.toNat 0 img.colors

/-- `IMG.COLORS` (44 R202). -/
def execImgColors (s : State) : Host.Outcome State Fault Refusal :=
  .next (s.unlessAborted fun s => s.ifImage fun s => s.finish (.okColors s.img.colors))

/-- `IMG.PIXELS` (44 R203). -/
def execImgPixels (s : State) : Host.Outcome State Fault Refusal :=
  .next (s.unlessAborted fun s => s.ifImage fun s => s.finish (.okPixels s.img.pixels))

/-- `IMG.BYTES`: "Its effect and result are exactly those of `FRM.SER`" (44 R204). -/
def execImgBytes (s : State) : Host.Outcome State Fault Refusal :=
  .next (s.unlessAborted fun s => s.ifImage fun s => s.serializeImage)

end Sys2Proof.Machine
end

