-- ==== Sys2Proof/Machine/Quantizer.lean ====
section
/-! DEFINITION. The uniform quantizer's commands (42_quantization.md). -/

namespace Sys2Proof.Machine

/-- `Q.NEW r, g, b`: set the descriptor, or fail `InvalidQuantization` and leave it (42 R150). -/
def execQNew (r g b : Byte) (s : State) : Host.Outcome State Fault Refusal :=
  .next (s.unlessAborted fun s =>
    s.check (channelWidthsLegal r g b) .invalidQuantization fun s =>
      { s with q := descriptorOf r g b, qValid := true }.finish .ok)

/-- `Q.ENC bits, value`: `RES` takes the index (42 R151). `Q` is not consulted (92 D24). -/
def execQEnc (bits value : Byte) (s : State) : Host.Outcome State Fault Refusal :=
  .next (s.unlessAborted fun s =>
    s.require (bitsInRange bits) .badBits fun s =>
      s.finishValue ((enc value bits.toNat).setWidth 64))

/-- `Q.DEC bits, index`: the two checks in order, then `RES` takes the value (42 R152). -/
def execQDec (bits index : Byte) (s : State) : Host.Outcome State Fault Refusal :=
  .next (s.unlessAborted fun s =>
    s.require (bitsInRange bits) .badBits fun s =>
    s.require (indexFits bits index) .indexTooWide fun s =>
      s.finishValue ((dec config index bits.toNat).setWidth 64))

end Sys2Proof.Machine
end

