-- ==== Sys2Proof/Machine/Reader.lean ====
section
/-! DEFINITION. The bit-stream reader's commands (41_bitstream_reader.md). -/

namespace Sys2Proof.Machine

/-- A buffer is bound, else `abort READER_UNBOUND` (41 R131, R134). -/
def State.ifBound (s : State) (body : State → State) : State :=
  s.require s.r.bound .readerUnbound body

/-- A reader cursor as the `u64` that `BSR.POS` returns; free from `2^64` on (41 R134, log 7). -/
def readerPos (cur : Nat) : U64 := if cur < 2 ^ 64 then BitVec.ofNat 64 cur else Config.readerPosBeyond cur

/-- `BSR.BIND`: the reader takes a copy of `IN`, its cursor at the start (41 R130). -/
def execBsrBind (s : State) : Host.Outcome State Fault Refusal :=
  .next (s.unlessAborted fun s => { s with r := Reader.bindTo s.inBuf }.finish .ok)

/-- `BSR.READ w`: the checks in the order of 41 R133, then `RES` takes the next `w` bits (41 R131, R132). -/
def execBsrRead (w : Byte) (s : State) : Host.Outcome State Fault Refusal :=
  .next (s.unlessAborted fun s => s.ifBound fun s =>
    s.require (widthInRange w) .badWidth fun s =>
    s.check (!s.r.short w.toNat) .truncatedData fun s =>
      { s with r := s.r.advance w.toNat }.finishValue (s.r.field w.toNat))

/-- `BSR.POS`: `RES` takes the reader's cursor (41 R134). -/
def execBsrPos (s : State) : Host.Outcome State Fault Refusal :=
  .next (s.unlessAborted fun s => s.ifBound fun s => s.finishValue (readerPos s.r.cur))

end Sys2Proof.Machine
end

