-- ==== Sys2Proof/Machine/Writer.lean ====
section
/-! DEFINITION. The bit-stream writer's commands (40_bitstream_writer.md). -/

namespace Sys2Proof.Machine

/-- The writer is open, else `abort WRITER_CONSUMED` (40 R111, R113, R115). -/
def State.ifOpen (s : State) (body : State → State) : State :=
  s.require (s.w.mode == .opened) .writerConsumed body

/-- A writer cursor as the `u64` that `BSW.POS` returns; free from `2^64` on (40 R115, log 7). -/
def writerPos (cur : Nat) : U64 := if cur < 2 ^ 64 then BitVec.ofNat 64 cur else Config.writerPosBeyond cur

/-- `BSW.INIT`: a new, empty, open writer, legal in either mode (40 R110). -/
def execBswInit (s : State) : Host.Outcome State Fault Refusal :=
  .next (s.unlessAborted fun s => { s with w := Writer.fresh }.finish .ok)

/-- `BSW.WRITE w, v`: the three checks in order, then append the field (40 R111). -/
def execBswWrite (w : Byte) (v : U64) (s : State) : Host.Outcome State Fault Refusal :=
  .next (s.unlessAborted fun s => s.ifOpen fun s =>
    s.require (widthInRange w) .badWidth fun s =>
    s.require (valueFits w v) .valueTooWide fun s =>
      { s with w := s.w.put w.toNat v }.finish .ok)

/-- `BSW.FIN`: `OUT` takes the whole buffer, the writer is consumed (40 R113). -/
def execBswFin (s : State) : Host.Outcome State Fault Refusal :=
  .next (s.unlessAborted fun s => s.ifOpen fun s =>
    { s with w := s.w.finalize }.finishBytes s.w.buf)

/-- `BSW.POS`: `RES` takes the writer's cursor (40 R115). -/
def execBswPos (s : State) : Host.Outcome State Fault Refusal :=
  .next (s.unlessAborted fun s => s.ifOpen fun s => s.finishValue (writerPos s.w.cur))

end Sys2Proof.Machine
end

