-- ==== Sys2Proof/Syntax.lean ====
section
/-! DEFINITION. The sixteen commands of the opcode map (30_encoding R94), one constructor each. -/

namespace Sys2Proof

/-- A command with its operands as the command word carries them (30_encoding R91 to R93).
Bulk operands do not travel in the command: they stand in `IN` and `PIXIN` (R90). -/
inductive Instr where
  /-- `BSW.INIT` (40 R110). -/
  | bswInit
  /-- `BSW.WRITE w, v`: `a` is the width, `d` the value (40 R111). -/
  | bswWrite (w : Byte) (v : U64)
  /-- `BSW.FIN` (40 R113). -/
  | bswFin
  /-- `BSW.POS` (40 R115). -/
  | bswPos
  /-- `BSR.BIND`, bulk operand `IN` (41 R130). -/
  | bsrBind
  /-- `BSR.READ w`: `a` is the width (41 R131). -/
  | bsrRead (w : Byte)
  /-- `BSR.POS` (41 R134). -/
  | bsrPos
  /-- `Q.NEW r, g, b`: three 8-bit channel widths, so that 9 and above can be expressed (42 R150). -/
  | qNew (r g b : Byte)
  /-- `Q.ENC bits, value` (42 R151). -/
  | qEnc (bits value : Byte)
  /-- `Q.DEC bits, index` (42 R152). -/
  | qDec (bits index : Byte)
  /-- `FRM.SER` (43 R170). -/
  | frmSer
  /-- `FRM.DES`, bulk operand `IN` (43 R174). -/
  | frmDes
  /-- `IMG.NEW width, height, r, g, b`, bulk operand `PIXIN` (44 R200). -/
  | imgNew (width height : Dim) (r g b : Byte)
  /-- `IMG.COLORS` (44 R202). -/
  | imgColors
  /-- `IMG.PIXELS` (44 R203). -/
  | imgPixels
  /-- `IMG.BYTES` (44 R204). -/
  | imgBytes
deriving DecidableEq, Repr

end Sys2Proof
end

