-- ==== Sys2Proof/Machine/Dispatch.lean ====
section
/-! DEFINITION. The meaning of each command, one arm each. -/

namespace Sys2Proof.Machine

/-- One command, run to completion (00_scope R10). -/
def exec (i : Instr) (s : State) : Host.Outcome State Fault Refusal :=
  match i with
  | .bswInit => Sys2Proof.Machine.execBswInit s
  | .bswWrite w v => Sys2Proof.Machine.execBswWrite w v s
  | .bswFin => Sys2Proof.Machine.execBswFin s
  | .bswPos => Sys2Proof.Machine.execBswPos s
  | .bsrBind => Sys2Proof.Machine.execBsrBind s
  | .bsrRead w => Sys2Proof.Machine.execBsrRead w s
  | .bsrPos => Sys2Proof.Machine.execBsrPos s
  | .qNew r g b => Sys2Proof.Machine.execQNew r g b s
  | .qEnc bits value => Sys2Proof.Machine.execQEnc bits value s
  | .qDec bits index => Sys2Proof.Machine.execQDec bits index s
  | .frmSer => Sys2Proof.Machine.execFrmSer s
  | .frmDes => Sys2Proof.Machine.execFrmDes s
  | .imgNew width height r g b => Sys2Proof.Machine.execImgNew width height r g b s
  | .imgColors => Sys2Proof.Machine.execImgColors s
  | .imgPixels => Sys2Proof.Machine.execImgPixels s
  | .imgBytes => Sys2Proof.Machine.execImgBytes s

end Sys2Proof.Machine
end

