-- ==== Sys2Proof/WellFormed.lean ====
section
/-! DEFINITION. Which commands have operands in the ranges the spec calls legal (30_encoding R91 to R93).
A command outside these ranges still has a word and still decodes (R91: "decodes (the word is well formed) and then
aborts"); `wellFormed` is the check a host makes before it issues a command (70 R266), and nothing of the machine reads it. -/

namespace Sys2Proof

/-- `1 <= w <= 64` (30_encoding R91; 20_memory R58). -/
def Instr.legalWidth (w : Byte) : Bool := 1 ≤ w.toNat && w.toNat ≤ 64

/-- `v < 2^w` (30_encoding R91). -/
def Instr.legalValue (w : Byte) (v : U64) : Bool := v.toNat < 2 ^ w.toNat

/-- `bits_x` in 0..8 (30_encoding R93). -/
def Instr.legalBits (bits : Byte) : Bool := bits.toNat ≤ 8

/-- `index < 2^bits_x` (30_encoding R93). -/
def Instr.legalIndex (bits index : Byte) : Bool := index.toNat < 2 ^ bits.toNat

/-- The operands are in the ranges that 30_encoding R91 to R93 call legal. The descriptor operands of `Q.NEW` and
`IMG.NEW` have no illegal value: an out-of-range one "can be expressed and refused" by a failure (R92). -/
def Instr.wellFormed : Instr → Bool
  | .bswInit => true
  | .bswWrite w v => legalWidth w && legalValue w v
  | .bswFin => true
  | .bswPos => true
  | .bsrBind => true
  | .bsrRead w => legalWidth w
  | .bsrPos => true
  | .qNew _ _ _ => true
  | .qEnc bits _ => legalBits bits
  | .qDec bits index => legalBits bits && legalIndex bits index
  | .frmSer => true
  | .frmDes => true
  | .imgNew _ _ _ _ _ => true
  | .imgColors => true
  | .imgPixels => true
  | .imgBytes => true

end Sys2Proof
end

