-- ==== Sys2Proof/Decode.lean ====
section
/-! DEFINITION. The command word (30_encoding Part B): a total decoder that refuses by name, and the encoder. -/

namespace Sys2Proof

/-- Why a command word is illegal (30_encoding R96; 93 U17). The block answers both with `abort(ILLEGAL_CMD)`. -/
inductive DecodeRefusal where
  /-- `op` is not in the opcode map. Safe: no command is executed. -/
  | unknownOp
  /-- A must-be-zero field is not zero. Safe: no command is executed. -/
  | mustBeZero
deriving DecidableEq, Repr

/-- `op = cmd[79:72]` (30_encoding R90). -/
def CmdWord.op (w : CmdWord) : Byte := w.extractLsb' 72 8

/-- `a = cmd[71:64]` (30_encoding R90). -/
def CmdWord.a (w : CmdWord) : Byte := w.extractLsb' 64 8

/-- `d = cmd[63:0]` (30_encoding R90). -/
def CmdWord.d (w : CmdWord) : U64 := w.extractLsb' 0 64

/-- The word `op a d` (30_encoding R90). -/
def CmdWord.mk (op a : Byte) (d : U64) : CmdWord := op ++ a ++ d

/-- `i` if the must-be-zero fields of its row are zero, else a refusal (30_encoding R96). -/
def requireZero (zero : Bool) (i : Instr) : Except DecodeRefusal Instr :=
  if zero then .ok i else .error .mustBeZero

/-- The opcode map (30_encoding R94): the command of an opcode, its operand fields (R91 to R93) and the fields that
must be zero. -/
def decodeFields (op a : Byte) (d : U64) : Except DecodeRefusal Instr :=
  match op.toNat with
  | 0x10 => requireZero (a == 0 && d == 0) .bswInit
  | 0x11 => .ok (.bswWrite a d)
  | 0x12 => requireZero (a == 0 && d == 0) .bswFin
  | 0x13 => requireZero (a == 0 && d == 0) .bswPos
  | 0x20 => requireZero (a == 0 && d == 0) .bsrBind
  | 0x21 => requireZero (d == 0) (.bsrRead a)
  | 0x23 => requireZero (a == 0 && d == 0) .bsrPos
  | 0x30 => requireZero (a == 0 && d.extractLsb' 24 40 == 0)
      (.qNew (d.extractLsb' 16 8) (d.extractLsb' 8 8) (d.extractLsb' 0 8))
  | 0x31 => requireZero (d.extractLsb' 8 56 == 0) (.qEnc a (d.extractLsb' 0 8))
  | 0x32 => requireZero (d.extractLsb' 8 56 == 0) (.qDec a (d.extractLsb' 0 8))
  | 0x40 => requireZero (a == 0 && d == 0) .frmSer
  | 0x41 => requireZero (a == 0 && d == 0) .frmDes
  | 0x50 => requireZero (a == 0 && d.extractLsb' 56 8 == 0)
      (.imgNew (d.extractLsb' 40 16) (d.extractLsb' 24 16)
        (d.extractLsb' 16 8) (d.extractLsb' 8 8) (d.extractLsb' 0 8))
  | 0x51 => requireZero (a == 0 && d == 0) .imgColors
  | 0x52 => requireZero (a == 0 && d == 0) .imgPixels
  | 0x53 => requireZero (a == 0 && d == 0) .imgBytes
  | _ => .error .unknownOp

/-- The command a word stands for, or why it stands for none. Total on every 80-bit word; an illegal word "is never
executed as some other command and never ignored" (30_encoding R96). -/
def decode (w : CmdWord) : Except DecodeRefusal Instr :=
  decodeFields w.op w.a w.d

/-- The opcode of a command (30_encoding R94). -/
def Instr.opcode : Instr → Byte
  | .bswInit => 0x10
  | .bswWrite _ _ => 0x11
  | .bswFin => 0x12
  | .bswPos => 0x13
  | .bsrBind => 0x20
  | .bsrRead _ => 0x21
  | .bsrPos => 0x23
  | .qNew _ _ _ => 0x30
  | .qEnc _ _ => 0x31
  | .qDec _ _ => 0x32
  | .frmSer => 0x40
  | .frmDes => 0x41
  | .imgNew _ _ _ _ _ => 0x50
  | .imgColors => 0x51
  | .imgPixels => 0x52
  | .imgBytes => 0x53

/-- The field `a` of a command's word (30_encoding R91, R93). -/
def Instr.argA : Instr → Byte
  | .bswInit => 0
  | .bswWrite w _ => w
  | .bswFin => 0
  | .bswPos => 0
  | .bsrBind => 0
  | .bsrRead w => w
  | .bsrPos => 0
  | .qNew _ _ _ => 0
  | .qEnc bits _ => bits
  | .qDec bits _ => bits
  | .frmSer => 0
  | .frmDes => 0
  | .imgNew _ _ _ _ _ => 0
  | .imgColors => 0
  | .imgPixels => 0
  | .imgBytes => 0

/-- The field `d` of a command's word (30_encoding R91 to R93). -/
def Instr.argD : Instr → U64
  | .bswInit => 0
  | .bswWrite _ v => v
  | .bswFin => 0
  | .bswPos => 0
  | .bsrBind => 0
  | .bsrRead _ => 0
  | .bsrPos => 0
  | .qNew r g b => (0#40 ++ r ++ g ++ b : BitVec 64)
  | .qEnc _ value => (0#56 ++ value : BitVec 64)
  | .qDec _ index => (0#56 ++ index : BitVec 64)
  | .frmSer => 0
  | .frmDes => 0
  | .imgNew width height r g b => (0#8 ++ width ++ height ++ r ++ g ++ b : BitVec 64)
  | .imgColors => 0
  | .imgPixels => 0
  | .imgBytes => 0

/-- The command word of a command (30_encoding R90 to R94). -/
def encode (i : Instr) : CmdWord := CmdWord.mk i.opcode i.argA i.argD

/-- A row of the opcode table: the bits that are fixed, and what they are. -/
structure OpRow where
  /-- The fixed bits. -/
  mask : CmdWord
  /-- Their values. -/
  pattern : CmdWord
deriving DecidableEq, Repr

/-- The word agrees with the row on every fixed bit. -/
def OpRow.admits (row : OpRow) (w : CmdWord) : Bool := w &&& row.mask == row.pattern

/-- `match` and `mask` of a command's row of spec/opcode_table.json. The decoder does not read it: the table and
`decodeFields` are two writings of 30_encoding R94, and Laws and obligations hold one against the other. -/
def Instr.row : Instr → OpRow
  | .bswInit => ⟨0xFFFFFFFFFFFFFFFFFFFF, 0x10000000000000000000⟩
  | .bswWrite _ _ => ⟨0xFF000000000000000000, 0x11000000000000000000⟩
  | .bswFin => ⟨0xFFFFFFFFFFFFFFFFFFFF, 0x12000000000000000000⟩
  | .bswPos => ⟨0xFFFFFFFFFFFFFFFFFFFF, 0x13000000000000000000⟩
  | .bsrBind => ⟨0xFFFFFFFFFFFFFFFFFFFF, 0x20000000000000000000⟩
  | .bsrRead _ => ⟨0xFF00FFFFFFFFFFFFFFFF, 0x21000000000000000000⟩
  | .bsrPos => ⟨0xFFFFFFFFFFFFFFFFFFFF, 0x23000000000000000000⟩
  | .qNew _ _ _ => ⟨0xFFFFFFFFFFFFFF000000, 0x30000000000000000000⟩
  | .qEnc _ _ => ⟨0xFF00FFFFFFFFFFFFFF00, 0x31000000000000000000⟩
  | .qDec _ _ => ⟨0xFF00FFFFFFFFFFFFFF00, 0x32000000000000000000⟩
  | .frmSer => ⟨0xFFFFFFFFFFFFFFFFFFFF, 0x40000000000000000000⟩
  | .frmDes => ⟨0xFFFFFFFFFFFFFFFFFFFF, 0x41000000000000000000⟩
  | .imgNew _ _ _ _ _ => ⟨0xFFFFFF00000000000000, 0x50000000000000000000⟩
  | .imgColors => ⟨0xFFFFFFFFFFFFFFFFFFFF, 0x51000000000000000000⟩
  | .imgPixels => ⟨0xFFFFFFFFFFFFFFFFFFFF, 0x52000000000000000000⟩
  | .imgBytes => ⟨0xFFFFFFFFFFFFFFFFFFFF, 0x53000000000000000000⟩

/-- One command of each constructor, every operand 0: the sixteen rows of the table. -/
def Instr.allRows : List Instr :=
  [.bswInit, .bswWrite 0 0, .bswFin, .bswPos, .bsrBind, .bsrRead 0, .bsrPos, .qNew 0 0 0, .qEnc 0 0, .qDec 0 0,
    .frmSer, .frmDes, .imgNew 0 0 0 0 0, .imgColors, .imgPixels, .imgBytes]

/-- The bits of a table word: its low `nbits` bits, every higher bit 0. -/
def tableBits (nbits w : Nat) : Nat := w % 2 ^ nbits

/-- The command word with those bits. It has one format and one length, 80 bits (30_encoding R90), and no byte order
(log 14): bit `k` of the table's number is `cmd[k]`. -/
def tableWord (nbits w : Nat) : CmdWord := BitVec.ofNat 80 (tableBits nbits w)

/-- What the decoder reads from an instruction whose bits are `w`, numbered as spec/opcode_table.json numbers them;
a number that no 80-bit word holds is refused. -/
def decodeTableWord (nbits w : Nat) : Option Instr :=
  if tableBits nbits w < 2 ^ 80 then (decode (tableWord nbits w)).toOption else none

end Sys2Proof
end

