-- ==== Sys2Proof/Machine/Port.lean ====
section
/-! DEFINITION. The host's side of the block: how the next host action is taken, what staging, reading and an illegal
word do (10_state R30 to R34; 60_exceptions R227, R229; log 2, 3, 4). -/

namespace Sys2Proof.Machine

/-- The action is taken off the list; nothing is handed back yet. -/
def State.took (s : State) (rest : List HostAction) : State := { s with host := rest, reply := none }

/-- No command issued: "the block waits for the first command" (70 R260). -/
def State.idle (s : State) : State := { s with reply := none }

/-- The host fills `IN` (10_state R30). -/
def State.fillIn (s : State) (bytes : List Byte) : State := { s with inBuf := bytes }

/-- The host fills `PIXIN` (10_state R30). -/
def State.fillPixin (s : State) (pixels : List Rgb) : State := { s with pixin := pixels }

/-- The host reads a register; a read behind a clear valid flag faults (10_state R32; 93 U16). Reading changes no
architectural state and is no command, so an abort does not stop it. -/
def hostRead (r : HostReg) (s : State) : Host.Outcome State Fault Refusal :=
  match r with
  | .res => if s.resValid then .next { s with reply := some (.res s.res) } else .fault .resInvalid
  | .out => if s.outValid then .next { s with reply := some (.out s.out) } else .fault .outInvalid
  | .st => .next { s with reply := some (.st s.st.code) }
  | .abortSet => .next { s with reply := some (.abortSet s.abortSet) }
  | .abortCause =>
    if s.abortSet then .next { s with reply := some (.abortCause s.abortCause.code) } else .fault .abortCauseInvalid

/-- An illegal command word: `abort(ILLEGAL_CMD)`, after the check of `ABORT.set` (60_exceptions R229; 30_encoding
R96). -/
def execIllegal (s : State) : Host.Outcome State Fault Refusal :=
  .next (s.unlessAborted fun s => s.takeAbort .illegalCmd)

end Sys2Proof.Machine
end

