-- ==== Sys2Proof/Machine/Step.lean ====
section
/-! DEFINITION. One step of the machine: the host's next action, a command being run whole (00_scope R10; 20_memory R62). -/

namespace Sys2Proof.Machine

/-- The next action of the host, done. A command word is decoded and run; an illegal one aborts. With no action left
the block waits. -/
def step (s : State) : Host.Outcome State Fault Refusal :=
  match s.host with
  | [] => .next s.idle
  | .command w :: rest =>
    match decode w with
    | .ok i => exec i (s.took rest)
    | .error _ => execIllegal (s.took rest)
  | .fillIn bytes :: rest => .next ((s.took rest).fillIn bytes)
  | .fillPixin pixels :: rest => .next ((s.took rest).fillPixin pixels)
  | .readReg r :: rest => hostRead r (s.took rest)
  | .reset :: rest => .next (s.took rest).applyReset

/-- The host issues the table's word next (log 2): the very next step runs it. -/
def State.withFetchWord (s : State) (nbits w : Nat) : State :=
  { s with host := .command (tableWord nbits w) :: s.host }

end Sys2Proof.Machine
end

