-- ==== Sys2Proof/Safety.lean ====
section
/-! DEFINITION. What counts as a safe state and a safe run, in the terms the statements use. -/

namespace Sys2Proof.Machine

/-! ## Invariants -/

/-- The writer invariant (10_state R21): `len(W.buf) = ceil(W.cur / 8)`, and every bit from the cursor on is 0. -/
abbrev Writer.Wf (w : Writer) : Prop :=
  w.buf.length = bytesFor w.cur ∧ ∀ k, k < bitlen w.buf → w.cur ≤ k → sbit w.buf k = false

/-- The reader invariant (10_state R23): `0 <= R.cur <= 8 * len(R.buf)`. -/
abbrev Reader.Wf (r : Reader) : Prop := r.cur ≤ bitlen r.buf

/-- The image invariants (10_state R27). -/
abbrev Image.Wf (img : Image) : Prop :=
  1 ≤ img.width.toNat ∧ 1 ≤ img.height.toNat ∧ img.q.legal = true ∧
    img.pix.length = pixelCount img.width img.height

/-- The three spaces are in their form: `WBUF` as long as its cursor says with a zero pad, `RBUF` no shorter than its
cursor, `PIX` as long as the Image says. Each space is a list, so equal contents are equal data (log 12). -/
abbrev Memory.wf (s : State) : Prop := s.w.Wf ∧ s.r.Wf ∧ (s.imgValid = true → s.img.Wf)

/-- What holds after reset and after every step: the forms of the three spaces (10_state R21, R23, R27), a valid
descriptor is legal (R24), a valid `RES` was left by an `ok` with no abort since (R32, R33), and a consumed writer's
bytes are still in `OUT` (40 R113; 10_state R32). -/
abbrev State.Inv (s : State) : Prop :=
  Memory.wf s ∧
  (s.qValid = true → s.q.legal = true) ∧
  (s.resValid = true → s.st = .ok ∧ s.abortSet = false) ∧
  (s.w.mode = .consumed → s.outValid = true ∧ s.out = s.w.buf)

/-! ## Contract violations (60_exceptions R227, R229) -/

/-- The first contract condition that a command's operands and the state violate, in the order its rule lists them
(60_exceptions R227, R229; 40 R111, R113, R115; 41 R133; 42 R151, R152; 43 R170; 44 R202 to R204). -/
def violation (s : State) : Instr → Option AbortCause
  | .bswInit => none
  | .bswWrite w v =>
    if s.w.mode = .consumed then some .writerConsumed
    else if w.toNat < 1 ∨ 64 < w.toNat then some .badWidth
    else if 2 ^ w.toNat ≤ v.toNat then some .valueTooWide
    else none
  | .bswFin => if s.w.mode = .consumed then some .writerConsumed else none
  | .bswPos => if s.w.mode = .consumed then some .writerConsumed else none
  | .bsrBind => none
  | .bsrRead w =>
    if s.r.bound = false then some .readerUnbound
    else if w.toNat < 1 ∨ 64 < w.toNat then some .badWidth
    else none
  | .bsrPos => if s.r.bound = false then some .readerUnbound else none
  | .qNew _ _ _ => none
  | .qEnc bits _ => if 8 < bits.toNat then some .badBits else none
  | .qDec bits index =>
    if 8 < bits.toNat then some .badBits
    else if 2 ^ bits.toNat ≤ index.toNat then some .indexTooWide
    else none
  | .frmSer => if s.imgValid = false then some .noImage else none
  | .frmDes => none
  | .imgNew _ _ _ _ _ => none
  | .imgColors => if s.imgValid = false then some .noImage else none
  | .imgPixels => if s.imgValid = false then some .noImage else none
  | .imgBytes => if s.imgValid = false then some .noImage else none

/-- A state is final for no run while an abort stands: "A model treats an abort as a fault: the state is never final and
no value is produced" (60_exceptions R227; log 1). -/
abbrev State.Final (s : State) : Prop := s.abortSet = false ∧ s.host = []

/-- The result the last step handed back is an abort. -/
abbrev State.Aborting (s : State) (c : AbortCause) : Prop := s.reply = some (.result (.abort c))

/-- The result the last step handed back is a failure. -/
abbrev State.Failing (s : State) (f : Failure) : Prop := s.reply = some (.result (.fail f))

/-- The result the last step handed back is an `ok`, with or without a value. -/
def State.Succeeding (s : State) : Prop := ∃ r, s.reply = some (.result r) ∧ (∀ f, r ≠ .fail f) ∧ ∀ c, r ≠ .abort c

/-! ## Runs of commands -/

/-- The commands run one after another; none if one stops (00_scope R10). -/
def runAll : List Instr → State → Option State
  | [], s => some s
  | i :: is, s =>
    match exec i s with
    | .next t => runAll is t
    | _ => none

/-- `BSR.READ` of each width in turn, with what `RES` holds after each; none if a read leaves no valid `RES`. -/
def readAll : List Byte → State → Option (List U64 × State)
  | [], s => some ([], s)
  | w :: ws, s =>
    match exec (.bsrRead w) s with
    | .next t => if t.resValid then (readAll ws t).map fun vs => (t.res :: vs.1, vs.2) else none
    | _ => none

/-- A field as `BSW.WRITE` takes it: a width and a value. -/
abbrev StreamField := Byte × U64

/-- `1 <= w <= 64` and `v < 2^w` (40 R116). -/
abbrev StreamField.Fits (f : StreamField) : Prop := 1 ≤ f.1.toNat ∧ f.1.toNat ≤ 64 ∧ f.2.toNat < 2 ^ f.1.toNat

/-- The stream bits of a list of fields. -/
def fieldBits (fs : List StreamField) : Nat := (fs.map fun f => f.1.toNat).sum

/-! ## What the codec makes of an Image (43 R171, R175, R180) -/

/-- `Rgb(dec(enc(p.r, bits_r), bits_r), dec(enc(p.g, bits_g), bits_g), dec(enc(p.b, bits_b), bits_b))` (43 R180). -/
def Rgb.requantized (c : Config) (q : Descriptor) (p : Rgb) : Rgb where
  r := dec c (enc p.r q.r.toNat) q.r.toNat
  g := dec c (enc p.g q.g.toNat) q.g.toNat
  b := dec c (enc p.b q.b.toNat) q.b.toNat

/-- The Image whose every pixel is requantized (43 R180). -/
def Image.requantized (c : Config) (img : Image) : Image := { img with pix := img.pix.map (Rgb.requantized c img.q) }

/-- `width*height*(bits_r+bits_g+bits_b)`, the bits of the pixel data (30_encoding R80). -/
def Image.pixelDataBits (img : Image) : Nat :=
  img.width.toNat * img.height.toNat * (img.q.r.toNat + img.q.g.toNat + img.q.b.toNat)

/-- The write of one channel as a command; none when its width is 0 (43 R171, R172). -/
def channelCommands (bits : Nibble) (value : Byte) : List Instr :=
  if bits = 0 then [] else [.bswWrite (bits.setWidth 8) ((enc value bits.toNat).setWidth 64)]

/-- The writes of one pixel as commands, r then g then b (43 R171). -/
def pixelCommands (q : Descriptor) (p : Rgb) : List Instr :=
  channelCommands q.r p.r ++ channelCommands q.g p.g ++ channelCommands q.b p.b

/-- `FRM.SER` as the sequence of commands it expands to (43 R171; 30_encoding R99). -/
def serializeCommands (img : Image) : List Instr :=
  [.bswInit, .bswWrite 64 0x67726E666C643432, .bswWrite 16 (img.width.setWidth 64), .bswWrite 16 (img.height.setWidth 64),
    .bswWrite 4 (img.q.r.setWidth 64), .bswWrite 4 (img.q.g.setWidth 64), .bswWrite 4 (img.q.b.setWidth 64)] ++
  img.pix.flatMap (pixelCommands img.q) ++ [.bswFin]

/-! ## Reading a stream by its layout (30_encoding R80, R84) -/

/-- The value of the field of width `n` at stream bit `c`: `sum over i in 0..n-1 of sbit(buf, c + i) * 2^(n-1-i)`
(30_encoding R84). -/
def fieldAt (buf : List Byte) (c n : Nat) : Nat :=
  ((List.range n).map fun i => (sbit buf (c + i)).toNat * 2 ^ (n - 1 - i)).sum

/-- The first eight bytes are there and are the magic value (30_encoding R81). -/
abbrev HasMagic (buf : List Byte) : Prop := 8 ≤ buf.length ∧ fieldAt buf 0 64 = 0x67726E666C643432

/-- Good magic, and both dimensions are there and are not 0 (30_encoding R82). -/
abbrev HasDimensions (buf : List Byte) : Prop :=
  HasMagic buf ∧ 12 ≤ buf.length ∧ fieldAt buf 64 16 ≠ 0 ∧ fieldAt buf 80 16 ≠ 0

/-- Good magic and dimensions, and all three descriptor nibbles are there and at most 8 (30_encoding R83). -/
abbrev HasHeader (buf : List Byte) : Prop :=
  HasDimensions buf ∧ 14 ≤ buf.length ∧ fieldAt buf 96 4 ≤ 8 ∧ fieldAt buf 100 4 ≤ 8 ∧ fieldAt buf 104 4 ≤ 8

/-- The stream length that a header declares, in bits before padding (30_encoding R86). -/
def declaredBits (buf : List Byte) : Nat :=
  108 + fieldAt buf 64 16 * fieldAt buf 80 16 * (fieldAt buf 96 4 + fieldAt buf 100 4 + fieldAt buf 104 4)

/-- The fields of the layout that the header of `buf` declares: one stands at stream bit `c` with width `n` (30_encoding
R80, R85). A channel of width 0 occupies no bits. -/
def LayoutField (buf : List Byte) (c n : Nat) : Prop :=
  (c, n) ∈ [(0, 64), (64, 16), (80, 16), (96, 4), (100, 4), (104, 4)] ∨
  ∃ i, i < fieldAt buf 64 16 * fieldAt buf 80 16 ∧
    let r := fieldAt buf 96 4
    let g := fieldAt buf 100 4
    let b := fieldAt buf 104 4
    let p := 108 + i * (r + g + b)
    (c, n) ∈ [(p, r), (p + r, g), (p + r + g, b)]

end Sys2Proof.Machine
end

