-- ==== Sys2Proof/Certificates/Slice0/Obligations.lean ====
section
/-! DEFINITION. The statements for the provers, family by family. Each docstring names the rule of spec/ it formalises.
An equation `exec i s = .next { s with … }` is also the frame: every field it does not name is unchanged. -/

open Sys2Proof Sys2Proof.Machine

/-! ## The bit-stream writer -/

/-- 40 R110: `BSW.INIT` in either mode makes a new, empty, open writer; what was written and not finalized is lost. -/
def Obligations.BswInitMakesANewWriter : Prop :=
  decode 0x10000000000000000000 = .ok .bswInit ∧
  (∀ s : State, s.abortSet = false →
    exec .bswInit s = .next { s with
      w := { buf := [], cur := 0, mode := .opened }
      resValid := false, st := .ok, reply := some (.result .ok) }) ∧
  ∀ s : State, s.abortSet = false → s.w.mode = .opened →
    ∃ t, runAll [.bswWrite 3 5, .bswInit, .bswFin] s = some t ∧ t.out = [] ∧ t.reply = some (.result (.okBytes []))

/-- 40 R112: the closed form of a write, and the concatenation law. Only `WBUF`, the cursor, `RES.valid`, `ST` and the
result change; bytes of `WBUF` outside `c div 8 .. (c + w - 1) div 8` read as before. -/
def Obligations.BswWriteClosedForm : Prop :=
  (∀ (w : Byte) (v : U64) (s : State), s.abortSet = false → s.w.Wf → s.w.mode = .opened →
    1 ≤ w.toNat → w.toNat ≤ 64 → v.toNat < 2 ^ w.toNat →
    ∃ t, exec (.bswWrite w v) s = .next t ∧
      t = { s with
        w := { buf := t.w.buf, cur := s.w.cur + w.toNat, mode := .opened }
        resValid := false, st := .ok, reply := some (.result .ok) } ∧
      t.w.buf.length = (s.w.cur + w.toNat + 7) / 8 ∧
      (∀ k, k < s.w.cur → sbit t.w.buf k = sbit s.w.buf k) ∧
      (∀ k, s.w.cur ≤ k → k < s.w.cur + w.toNat → sbit t.w.buf k = v.getLsbD (w.toNat - 1 - (k - s.w.cur))) ∧
      (∀ k, s.w.cur + w.toNat ≤ k → k < 8 * t.w.buf.length → sbit t.w.buf k = false) ∧
      ∀ a, ¬ (s.w.cur / 8 ≤ a ∧ a ≤ (s.w.cur + w.toNat - 1) / 8) → t.w.byteAt a = s.w.byteAt a) ∧
  ∀ (w1 w2 : Byte) (v1 v2 : U64) (s : State), s.abortSet = false → s.w.Wf → s.w.mode = .opened →
    1 ≤ w1.toNat → 1 ≤ w2.toNat → w1.toNat + w2.toNat ≤ 64 →
    v1.toNat < 2 ^ w1.toNat → v2.toNat < 2 ^ w2.toNat →
    ∃ t u, runAll [.bswWrite w1 v1, .bswWrite w2 v2] s = some t ∧
      runAll [.bswWrite (w1 + w2) ((v1 <<< w2.toNat) ||| v2)] s = some u ∧ t.w.buf = u.w.buf

/-- 40 R113: `BSW.FIN` hands over the whole buffer, `ceil(W.cur / 8)` bytes with 0 to 7 zero pad bits on the low end of
the last, and consumes the writer; the buffer and the cursor keep their values. -/
def Obligations.BswFinHandsOverTheBytes : Prop :=
  decode 0x12000000000000000000 = .ok .bswFin ∧
  (∀ s : State, s.abortSet = false → s.w.Wf → s.w.mode = .opened →
    exec .bswFin s = .next { s with
      w := { s.w with mode := .consumed }
      out := s.w.buf, outValid := true, resValid := false, st := .ok
      reply := some (.result (.okBytes s.w.buf)) } ∧
    s.w.buf.length = (s.w.cur + 7) / 8 ∧
    8 * s.w.buf.length - s.w.cur = (8 - s.w.cur % 8) % 8 ∧
    ∀ k, s.w.cur ≤ k → k < 8 * s.w.buf.length → sbit s.w.buf k = false) ∧
  ∀ s : State, s.abortSet = false → s.w.mode = .consumed →
    exec .bswFin s = .next { s with
      abortSet := true, abortCause := .writerConsumed, resValid := false
      reply := some (.result (.abort .writerConsumed)) }

/-- 40 R114: after `BSW.FIN` the writer is consumed: `BSW.WRITE`, `BSW.FIN` and `BSW.POS` abort with `WRITER_CONSUMED`,
and no command but `BSW.INIT` reopens it. -/
def Obligations.ConsumedWriterStaysConsumed : Prop :=
  (∀ s t : State, s.abortSet = false → s.w.mode = .opened → exec .bswFin s = .next t → t.w.mode = .consumed) ∧
  (∀ (i : Instr) (s t : State), s.w.mode = .consumed → i ≠ .bswInit → exec i s = .next t → t.w.mode = .consumed) ∧
  (∀ (i : Instr) (s : State), s.abortSet = false → s.w.mode = .consumed →
    ((∃ w v, i = .bswWrite w v) ∨ i = .bswFin ∨ i = .bswPos) →
    exec i s = .next { s with
      abortSet := true, abortCause := .writerConsumed, resValid := false
      reply := some (.result (.abort .writerConsumed)) }) ∧
  ∀ s : State, s.abortSet = false → ∃ t, exec .bswInit s = .next t ∧ t.w.mode = .opened

/-- 40 R115: `BSW.POS` returns the writer's cursor in `RES`, for every cursor below `2^64`; a consumed writer aborts. -/
def Obligations.BswPosReturnsTheCursor : Prop :=
  decode 0x13000000000000000000 = .ok .bswPos ∧
  (∀ s : State, s.abortSet = false → s.w.mode = .opened → s.w.cur < 2 ^ 64 →
    exec .bswPos s = .next { s with
      res := BitVec.ofNat 64 s.w.cur, resValid := true, st := .ok
      reply := some (.result (.okValue (BitVec.ofNat 64 s.w.cur))) }) ∧
  (∀ s : State, s.abortSet = false → s.w.mode = .consumed →
    exec .bswPos s = .next { s with
      abortSet := true, abortCause := .writerConsumed, resValid := false
      reply := some (.result (.abort .writerConsumed)) }) ∧
  ∃ t, runAll [.bswWrite 3 5, .bswWrite 5 6, .bswWrite 12 0xABC, .bswPos] State.reset = some t ∧
    t.reply = some (.result (.okValue 20))

/-! ## The bit-stream reader -/

/-- 41 R130: `BSR.BIND` copies `IN`, puts the cursor at the start, and replaces any buffer that was bound; every read of
an empty buffer fails; no command but a bind (or `FRM.DES`, which binds) lowers the cursor. -/
def Obligations.BsrBindCopiesTheInput : Prop :=
  decode 0x20000000000000000000 = .ok .bsrBind ∧
  (∀ s : State, s.abortSet = false →
    exec .bsrBind s = .next { s with
      r := { buf := s.inBuf, cur := 0, bound := true }
      resValid := false, st := .ok, reply := some (.result .ok) }) ∧
  (∀ (w : Byte) (s : State), s.abortSet = false → s.inBuf = [] → 1 ≤ w.toNat → w.toNat ≤ 64 →
    ∃ t, runAll [.bsrBind, .bsrRead w] s = some t ∧ t.Failing .truncatedData) ∧
  ∀ (i : Instr) (s t : State), i ≠ .bsrBind → i ≠ .frmDes → exec i s = .next t → s.r.cur ≤ t.r.cur

/-- 30_encoding R84, 41 R131: `BSR.READ w` returns the next `w` bits, MSB first, as a number below `2^w` zero-extended
to 64 bits, and advances the cursor by `w`; `RBUF` and all else is unchanged. -/
def Obligations.BsrReadReturnsTheNextBits : Prop :=
  ∀ (w : Byte) (s : State), s.abortSet = false → s.r.bound = true → 1 ≤ w.toNat → w.toNat ≤ 64 →
    s.r.cur + w.toNat ≤ 8 * s.r.buf.length →
    ∃ v : U64, exec (.bsrRead w) s = .next { s with
        r := { s.r with cur := s.r.cur + w.toNat }
        res := v, resValid := true, st := .ok, reply := some (.result (.okValue v)) } ∧
      v.toNat = ((List.range w.toNat).map fun i =>
        (sbit s.r.buf (s.r.cur + i)).toNat * 2 ^ (w.toNat - 1 - i)).sum ∧
      v.toNat < 2 ^ w.toNat ∧
      ∀ i, i < w.toNat → v.getLsbD (w.toNat - 1 - i) = sbit s.r.buf (s.r.cur + i)

/-- 41 R131 corner case 4, 20_memory R56: two reads of widths `w1`, `w2` return the high `w1` and the low `w2` bits of what
one read of `w1 + w2 <= 64` returns. -/
def Obligations.BsrReadSplitsAField : Prop :=
  ∀ (w1 w2 : Byte) (s : State), s.abortSet = false → s.r.bound = true → 1 ≤ w1.toNat → 1 ≤ w2.toNat →
    w1.toNat + w2.toNat ≤ 64 → s.r.cur + w1.toNat + w2.toNat ≤ 8 * s.r.buf.length →
    ∃ (v1 v2 v : U64) (t u : State), readAll [w1, w2] s = some ([v1, v2], t) ∧ readAll [w1 + w2] s = some ([v], u) ∧
      v1.toNat = v.toNat / 2 ^ w2.toNat ∧ v2.toNat = v.toNat % 2 ^ w2.toNat ∧ t.r = u.r

/-- 41 R132: with fewer than `w` bits left the read fails `TruncatedData`, consumes nothing, and the failure is not
sticky: a later read of a width that fits returns what it would have returned. -/
def Obligations.BsrReadPastTheEndFails : Prop :=
  ∀ (w : Byte) (s : State), s.abortSet = false → s.r.bound = true → 1 ≤ w.toNat → w.toNat ≤ 64 →
    8 * s.r.buf.length < s.r.cur + w.toNat →
    exec (.bsrRead w) s = .next { s with
      resValid := false, st := .failed .truncatedData, reply := some (.result (.fail .truncatedData)) } ∧
    (Status.failed .truncatedData).code = 5 ∧
    ∀ w' : Byte, 1 ≤ w'.toNat → w'.toNat ≤ 64 → s.r.cur + w'.toNat ≤ 8 * s.r.buf.length →
      ∃ t, runAll [.bsrRead w, .bsrRead w'] s = some t ∧ exec (.bsrRead w') s = .next t ∧ t.Succeeding

/-- 41 R133: the order of the checks of a read: `ABORT.set`, `READER_UNBOUND`, `BAD_WIDTH`, `TruncatedData`; so widths 0
and 65 abort even on an empty buffer. -/
def Obligations.BsrReadChecksInOrder : Prop :=
  (∀ (w : Byte) (s : State), s.abortSet = true →
    exec (.bsrRead w) s = .next { s with reply := some (.result (.abort s.abortCause)) }) ∧
  (∀ (w : Byte) (s : State), s.abortSet = false → s.r.bound = false →
    exec (.bsrRead w) s = .next { s with
      abortSet := true, abortCause := .readerUnbound, resValid := false
      reply := some (.result (.abort .readerUnbound)) }) ∧
  (∀ (w : Byte) (s : State), s.abortSet = false → s.r.bound = true → (w.toNat < 1 ∨ 64 < w.toNat) →
    exec (.bsrRead w) s = .next { s with
      abortSet := true, abortCause := .badWidth, resValid := false
      reply := some (.result (.abort .badWidth)) }) ∧
  (∀ (w : Byte) (s : State), s.abortSet = false → s.r.bound = true → 1 ≤ w.toNat → w.toNat ≤ 64 →
    8 * s.r.buf.length < s.r.cur + w.toNat → ∃ t, exec (.bsrRead w) s = .next t ∧ t.Failing .truncatedData) ∧
  ∀ s : State, s.abortSet = false → s.r.bound = true → s.r.buf = [] →
    ∃ t u, exec (.bsrRead 0) s = .next t ∧ exec (.bsrRead 65) s = .next u ∧ t.Aborting .badWidth ∧ u.Aborting .badWidth

/-- 41 R135: the reader is a pure function of `(R.buf, R.cur, w)`, and a read succeeds exactly when at least `w` bits are
left. -/
def Obligations.BsrReadDependsOnReaderOnly : Prop :=
  (∀ (w : Byte) (s u : State), s.abortSet = false → u.abortSet = false → s.r = u.r →
    ∃ s' u', exec (.bsrRead w) s = .next s' ∧ exec (.bsrRead w) u = .next u' ∧
      s'.reply = u'.reply ∧ s'.r = u'.r ∧ s'.resValid = u'.resValid ∧ (s'.resValid = true → s'.res = u'.res)) ∧
  ∀ (w : Byte) (s t : State), s.abortSet = false → s.r.bound = true → s.r.Wf → 1 ≤ w.toNat → w.toNat ≤ 64 →
    exec (.bsrRead w) s = .next t → (t.Succeeding ↔ w.toNat ≤ 8 * s.r.buf.length - s.r.cur)

/-- 41 R134: `BSR.POS` returns the reader's cursor in `RES`, for every cursor below `2^64`; an unbound reader aborts. -/
def Obligations.BsrPosReturnsTheCursor : Prop :=
  decode 0x23000000000000000000 = .ok .bsrPos ∧
  (∀ s : State, s.abortSet = false → s.r.bound = true → s.r.cur < 2 ^ 64 →
    exec .bsrPos s = .next { s with
      res := BitVec.ofNat 64 s.r.cur, resValid := true, st := .ok
      reply := some (.result (.okValue (BitVec.ofNat 64 s.r.cur))) }) ∧
  (∀ s : State, s.abortSet = false → s.r.bound = false →
    exec .bsrPos s = .next { s with
      abortSet := true, abortCause := .readerUnbound, resValid := false
      reply := some (.result (.abort .readerUnbound)) }) ∧
  ∃ t, runAll [.bsrBind, .bsrRead 3, .bsrRead 5, .bsrRead 12, .bsrPos]
      { State.reset with inBuf := [0xA6, 0xAB, 0xC0] } = some t ∧ t.reply = some (.result (.okValue 20))

/-- The model's choice (log 7): with a cursor of `2^64` or more, which the spec puts "outside the model" (40 R115, 92 D15), the
two cursor reads complete all the same, with some value in `RES`. -/
def Obligations.PosCompletesAtEveryCursor : Prop :=
  ∀ s : State, s.abortSet = false →
    (s.w.mode = .opened → ∃ v, exec .bswPos s = .next { s with
      res := v, resValid := true, st := .ok, reply := some (.result (.okValue v)) }) ∧
    (s.r.bound = true → ∃ v, exec .bsrPos s = .next { s with
      res := v, resValid := true, st := .ok, reply := some (.result (.okValue v)) })

/-- 10_state R23: the reader invariant is kept, and `R` changes only by a successful read, which adds the width, and by a
bind (`BSR.BIND`, and `FRM.DES` through it). -/
def Obligations.ReaderChangesOnlyByReadAndBind : Prop :=
  (∀ (i : Instr) (s t : State), s.r.Wf → exec i s = .next t → t.r.Wf) ∧
  (∀ s t : State, s.abortSet = false → exec .bsrBind s = .next t → t.r.cur = 0) ∧
  (∀ (w : Byte) (s t : State), s.abortSet = false → exec (.bsrRead w) s = .next t →
    (t.Succeeding → t.r = { s.r with cur := s.r.cur + w.toNat }) ∧ (¬ t.Succeeding → t.r = s.r)) ∧
  ∀ (i : Instr) (s t : State), exec i s = .next t → t.r ≠ s.r →
    i = .bsrBind ∨ i = .frmDes ∨ ∃ w, i = .bsrRead w ∧ t.Succeeding

/-- 40 R116: writer and reader are inverse, for any list of fields: the finalized bytes, bound and read with the same
widths, return the values in order; between 0 and 7 bits remain, all zero. -/
def Obligations.WriterThenReaderReturnsTheFields : Prop :=
  ∀ (fs : List StreamField) (s : State), s.abortSet = false → (∀ f ∈ fs, f.Fits) →
    ∃ t u, runAll ([.bswInit] ++ fs.map (fun f => Instr.bswWrite f.1 f.2) ++ [.bswFin]) s = some t ∧
      runAll [.bsrBind] { t with inBuf := t.out } = some u ∧
      ∃ e, readAll (fs.map Prod.fst) u = some (fs.map Prod.snd, e) ∧
        e.r.buf = t.out ∧ e.r.cur = fieldBits fs ∧ e.r.cur ≤ 8 * t.out.length ∧ 8 * t.out.length - e.r.cur ≤ 7 ∧
        ∀ k, e.r.cur ≤ k → k < 8 * t.out.length → sbit t.out k = false

/-! ## The quantizer -/

/-- 42 R150: `Q.NEW` sets the descriptor when no component is above 8, else fails `InvalidQuantization` and leaves it. -/
def Obligations.QNewSetsOrRefuses : Prop :=
  (∀ r g b : Byte, decode (0x30#8 ++ 0#8 ++ 0#40 ++ r ++ g ++ b : CmdWord) = .ok (.qNew r g b)) ∧
  ∀ (r g b : Byte) (s : State), s.abortSet = false →
    (r.toNat ≤ 8 → g.toNat ≤ 8 → b.toNat ≤ 8 → ∃ t, exec (.qNew r g b) s = .next t ∧
      t = { s with q := t.q, qValid := true, resValid := false, st := .ok, reply := some (.result .ok) } ∧
      t.q.r.toNat = r.toNat ∧ t.q.g.toNat = g.toNat ∧ t.q.b.toNat = b.toNat) ∧
    (8 < r.toNat ∨ 8 < g.toNat ∨ 8 < b.toNat → exec (.qNew r g b) s = .next { s with
      resValid := false, st := .failed .invalidQuantization, reply := some (.result (.fail .invalidQuantization)) } ∧
      (Status.failed .invalidQuantization).code = 2)

/-- 42 R151: `Q.ENC` returns the top `bits` bits of the value: `value >> (8 - bits)`, and 0 when `bits` is 0; the result is
below `2^bits`; `Q` is neither read nor written; `bits` above 8 aborts `BAD_BITS`. -/
def Obligations.QEncReturnsTheTopBits : Prop :=
  (∀ bits value : Byte, decode (0x31#8 ++ bits ++ 0#56 ++ value : CmdWord) = .ok (.qEnc bits value)) ∧
  (∀ (bits value : Byte) (s : State), s.abortSet = false → bits.toNat ≤ 8 →
    ∃ v : U64, exec (.qEnc bits value) s = .next { s with
        res := v, resValid := true, st := .ok, reply := some (.result (.okValue v)) } ∧
      v.toNat < 2 ^ bits.toNat ∧
      (bits.toNat = 0 → v.toNat = 0) ∧
      (1 ≤ bits.toNat → v.toNat = value.toNat / 2 ^ (8 - bits.toNat) ∧ v.toNat = value.toNat / (256 / 2 ^ bits.toNat))) ∧
  ∀ (bits value : Byte) (s : State), s.abortSet = false → 8 < bits.toNat →
    exec (.qEnc bits value) s = .next { s with
      abortSet := true, abortCause := .badBits, resValid := false, reply := some (.result (.abort .badBits)) }

/-- 42 R152, R153: the complete decode table: 127 at 0 bits, the identity at 8, and `2^(8-b) i + 2^(7-b)` between; the value
lies in the interval `2^(8-b) i .. 2^(8-b) i + 2^(8-b) - 1` of its index. `bits` is the field `a` of the word and the index
`d[7:0]` (30_encoding R93); `bits` above 8 aborts `BAD_BITS`, then an index of `2^bits` or more `INDEX_TOO_WIDE`. -/
def Obligations.QDecReturnsTheMidpoint : Prop :=
  (∀ bits index : Byte, decode (0x32#8 ++ bits ++ 0#56 ++ index : CmdWord) = .ok (.qDec bits index)) ∧
  (∀ (bits index : Byte) (s : State), s.abortSet = false → bits.toNat ≤ 8 → index.toNat < 2 ^ bits.toNat →
    ∃ v : U64, exec (.qDec bits index) s = .next { s with
        res := v, resValid := true, st := .ok, reply := some (.result (.okValue v)) } ∧
      (bits.toNat = 0 → v.toNat = 127) ∧
      (1 ≤ bits.toNat → bits.toNat ≤ 7 →
        v.toNat = 2 ^ (8 - bits.toNat) * index.toNat + 2 ^ (7 - bits.toNat)) ∧
      (bits.toNat = 8 → v.toNat = index.toNat) ∧
      2 ^ (8 - bits.toNat) * index.toNat ≤ v.toNat ∧
      v.toNat < 2 ^ (8 - bits.toNat) * index.toNat + 2 ^ (8 - bits.toNat)) ∧
  (∀ (bits index : Byte) (s : State), s.abortSet = false → 8 < bits.toNat →
    exec (.qDec bits index) s = .next { s with
      abortSet := true, abortCause := .badBits, resValid := false, reply := some (.result (.abort .badBits)) }) ∧
  ∀ (bits index : Byte) (s : State), s.abortSet = false → bits.toNat ≤ 8 → 2 ^ bits.toNat ≤ index.toNat →
    exec (.qDec bits index) s = .next { s with
      abortSet := true, abortCause := .indexTooWide, resValid := false
      reply := some (.result (.abort .indexTooWide)) }

/-- 42 R154: idempotent re-encode, as commands: the index of a value, its decoded value, and that value's index. -/
def Obligations.QReencodeIsIdempotent : Prop :=
  ∀ (bits v : Byte) (s : State), s.abortSet = false → bits.toNat ≤ 8 →
    ∃ t1 t2 t3, exec (.qEnc bits v) s = .next t1 ∧ exec (.qDec bits (t1.res.setWidth 8)) t1 = .next t2 ∧
      exec (.qEnc bits (t2.res.setWidth 8)) t2 = .next t3 ∧
      t1.Succeeding ∧ t2.Succeeding ∧ t3.Succeeding ∧ t3.res = t1.res

/-- 42 R155: lossless at 8 bits; below, the reconstruction error is at most `2^(7-b)` (128 at 0 bits), reached at the
bottom of the interval, and `2^(7-b) - 1` at the top. -/
def Obligations.QReconstructionErrorIsBounded : Prop :=
  (∀ v : Byte, dec config (enc v 8) 8 = v) ∧
  (∀ (b : Nat) (v : Byte), 1 ≤ b → b ≤ 7 →
    Int.natAbs ((dec config (enc v b) b).toNat - v.toNat : Int) ≤ 2 ^ (7 - b) ∧
    (v.toNat % 2 ^ (8 - b) = 0 → Int.natAbs ((dec config (enc v b) b).toNat - v.toNat : Int) = 2 ^ (7 - b)) ∧
    (v.toNat % 2 ^ (8 - b) = 2 ^ (8 - b) - 1 →
      Int.natAbs ((dec config (enc v b) b).toNat - v.toNat : Int) = 2 ^ (7 - b) - 1)) ∧
  (∀ v : Byte, Int.natAbs ((dec config (enc v 0) 0).toNat - v.toNat : Int) ≤ 128) ∧
  Int.natAbs ((dec config (enc 255 0) 0).toNat - 255 : Int) = 128

/-! ## The frame codec -/

/-- 43 R170, R173, 44 R204, 30_encoding R86: `FRM.SER` and `IMG.BYTES` leave the writer consumed at cursor
`108 + width*height*(bits_r+bits_g+bits_b)`, its bytes in `OUT`, their number that over 8 rounded up; `IMG`, the reader,
and all else is unchanged. In every state the two commands do the same. -/
def Obligations.FrmSerAndImgBytesFillOut : Prop :=
  (∀ (i : Instr) (s : State), (i = .frmSer ∨ i = .imgBytes) → s.abortSet = false → s.imgValid = true → s.img.Wf →
    ∃ t, exec i s = .next t ∧
      t = { s with
        w := { buf := t.out, cur := 108 + s.img.pixelDataBits, mode := .consumed }
        out := t.out, outValid := true, resValid := false, st := .ok, reply := some (.result (.okBytes t.out)) } ∧
      t.out = serialize config s.img ∧ t.out.length = (108 + s.img.pixelDataBits + 7) / 8) ∧
  (∀ s : State, exec .imgBytes s = exec .frmSer s) ∧
  ∀ (i : Instr) (s : State), (i = .frmSer ∨ i = .imgBytes) → s.abortSet = false → s.imgValid = false →
    exec i s = .next { s with
      abortSet := true, abortCause := .noImage, resValid := false, reply := some (.result (.abort .noImage)) }

/-- 30_encoding R86: the length of a serialized Image, its least and its greatest value. -/
def Obligations.SerializedLength : Prop :=
  ∀ img : Image, img.Wf →
    (serialize config img).length = (108 + img.pixelDataBits + 7) / 8 ∧
    14 ≤ (serialize config img).length ∧ (serialize config img).length ≤ 12884508689 ∧
    (img.pixelDataBits ≤ 4 → (serialize config img).length = 14) ∧
    (img.width.toNat = 65535 → img.height.toNat = 65535 → img.q = ⟨8, 8, 8⟩ →
      (serialize config img).length = 12884508689)

/-- 43 R171, R173(1), 30_encoding R99: `FRM.SER` is its expansion: `BSW.INIT`, the header writes, a write for every channel
of every pixel whose width is not 0, `BSW.FIN`, none of which aborts. -/
def Obligations.FrmSerIsItsCommandSequence : Prop :=
  ∀ s : State, s.abortSet = false → s.imgValid = true → s.img.Wf →
    ∃ t, exec .frmSer s = .next t ∧ runAll (serializeCommands s.img) s = some t ∧ t.Succeeding

/-- 43 R173(4), 30_encoding R81 to R83: the bytes of a serialized header. -/
def Obligations.SerializedHeaderBytes : Prop :=
  ∀ img : Image, img.Wf →
    (serialize config img).take 8 = [0x67, 0x72, 0x6E, 0x66, 0x6C, 0x64, 0x34, 0x32] ∧
    fieldAt (serialize config img) 64 16 = img.width.toNat ∧ fieldAt (serialize config img) 80 16 = img.height.toNat ∧
    ((serialize config img).getD 12 0).toNat = 16 * img.q.r.toNat + img.q.g.toNat ∧
    ((serialize config img).getD 13 0).toNat / 16 = img.q.b.toNat

/-- 30_encoding R85: where each pixel's three indices stand in the stream, for either header padding. -/
def Obligations.SerializedPixelPlacement : Prop :=
  ∀ (c : Config) (img : Image) (i : Nat) (p : Rgb), img.Wf → img.pixelAt i = some p →
    fieldAt (serialize c img) (headerBits c + i * img.q.pixelBits) img.q.r.toNat = (enc p.r img.q.r.toNat).toNat ∧
    fieldAt (serialize c img) (headerBits c + i * img.q.pixelBits + img.q.r.toNat) img.q.g.toNat =
      (enc p.g img.q.g.toNat).toNat ∧
    fieldAt (serialize c img) (headerBits c + i * img.q.pixelBits + img.q.r.toNat + img.q.g.toNat) img.q.b.toNat =
      (enc p.b img.q.b.toNat).toNat

/-- 43 R174, R175, 30_encoding R80: `FRM.DES` of a buffer with a good header and every pixel bit it declares makes the
Image the layout spells, replaces the one that was there, and leaves the reader after the last pixel bit. -/
def Obligations.FrmDesReadsTheDeclaredImage : Prop :=
  ∀ s : State, s.abortSet = false → HasHeader s.inBuf → declaredBits s.inBuf ≤ 8 * s.inBuf.length →
    ∃ t, exec .frmDes s = .next t ∧
      t = { s with
        r := { buf := s.inBuf, cur := declaredBits s.inBuf, bound := true }
        img := t.img, imgValid := true, resValid := false, st := .ok, reply := some (.result .ok) } ∧
      t.img.Wf ∧
      t.img.width.toNat = fieldAt s.inBuf 64 16 ∧ t.img.height.toNat = fieldAt s.inBuf 80 16 ∧
      t.img.q.r.toNat = fieldAt s.inBuf 96 4 ∧ t.img.q.g.toNat = fieldAt s.inBuf 100 4 ∧
      t.img.q.b.toNat = fieldAt s.inBuf 104 4 ∧
      ∀ (i : Nat) (p : Rgb), t.img.pixelAt i = some p →
        p.r = dec config (BitVec.ofNat 8 (fieldAt s.inBuf (108 + i * t.img.q.pixelBits) t.img.q.r.toNat)) t.img.q.r.toNat ∧
        p.g = dec config (BitVec.ofNat 8
          (fieldAt s.inBuf (108 + i * t.img.q.pixelBits + t.img.q.r.toNat) t.img.q.g.toNat)) t.img.q.g.toNat ∧
        p.b = dec config (BitVec.ofNat 8
          (fieldAt s.inBuf (108 + i * t.img.q.pixelBits + t.img.q.r.toNat + t.img.q.g.toNat) t.img.q.b.toNat))
            t.img.q.b.toNat

/-- 43 R176: after a failed `FRM.DES` the image store is unchanged, the reader is bound to `IN` with its cursor after the
last read that succeeded, and no abort stands; a `FRM.DES` that succeeds leaves a valid Image. The read that failed is of
the field of the layout that stands at the cursor, of which too few bits are there. -/
def Obligations.FrmDesFailureKeepsTheImage : Prop :=
  (∀ (s t : State) (f : Failure), s.abortSet = false → exec .frmDes s = .next t → t.Failing f →
    t = { s with
      r := { buf := s.inBuf, cur := t.r.cur, bound := true }
      resValid := false, st := .failed f, reply := some (.result (.fail f)) } ∧
    (f = .magicMismatch → t.r.cur = 64) ∧ (f = .invalidDimensions → t.r.cur = 96) ∧
    (f = .invalidQuantization → t.r.cur = 108) ∧
    (f = .truncatedData → ∃ n, LayoutField s.inBuf t.r.cur n ∧ t.r.cur ≤ 8 * s.inBuf.length ∧
      8 * s.inBuf.length < t.r.cur + n)) ∧
  ∀ s t : State, s.abortSet = false → exec .frmDes s = .next t → t.Succeeding → t.imgValid = true ∧ t.img.Wf

/-- 43 R177: `FRM.DES` looks at nothing after the bits its header declares: a buffer that agrees on those bits gives the
same Image, whatever the pad bits and the bytes after them. -/
def Obligations.FrmDesIgnoresWhatFollows : Prop :=
  ∀ (s u t : State), s.abortSet = false → u.abortSet = false → exec .frmDes s = .next t → t.Succeeding →
    t.r.cur ≤ 8 * u.inBuf.length → (∀ k, k < t.r.cur → sbit u.inBuf k = sbit s.inBuf k) →
    t.r.cur = 108 + t.img.pixelDataBits ∧
    ∃ u', exec .frmDes u = .next u' ∧ u'.Succeeding ∧ u'.img = t.img ∧ u'.r.cur = t.r.cur

/-- 43 R180(1), (2): `FRM.DES` of what `FRM.SER` wrote reproduces width, height and descriptor, and every channel as
`dec(enc(channel))`; it never fails. At (8,8,8) the Image comes back exactly. -/
def Obligations.SerializeThenDeserialize : Prop :=
  ∀ s : State, s.abortSet = false → s.imgValid = true → s.img.Wf →
    ∃ t u, exec .frmSer s = .next t ∧ exec .frmDes { t with inBuf := t.out } = .next u ∧ u.Succeeding ∧
      u.imgValid = true ∧ u.img = s.img.requantized config ∧ u.r.cur = 108 + s.img.pixelDataBits ∧
      (s.img.q = ⟨8, 8, 8⟩ → u.img = s.img)

/-- 43 R180(1) for every configuration: either magic, either header padding, any constant for width 0. -/
def Obligations.RoundTripForEveryConfiguration : Prop :=
  ∀ (c : Config) (img : Image), img.Wf →
    deserialize c (serialize c img) =
      ({ buf := serialize c img, cur := headerBits c + img.pixelDataBits, bound := true }, .ok (img.requantized c))

/-- 43 R180(3): serializing the deserialized Image returns the same bytes. -/
def Obligations.ReserializeReturnsTheSameBytes : Prop :=
  ∀ s : State, s.abortSet = false → s.imgValid = true → s.img.Wf →
    ∃ t u v, exec .frmSer s = .next t ∧ exec .frmDes { t with inBuf := t.out } = .next u ∧ exec .frmSer u = .next v ∧
      v.Succeeding ∧ v.out = t.out

/-- 43 R180(4): a buffer shorter than its valid header declares fails with `TruncatedData`, and so does every proper
start of a serialized Image. -/
def Obligations.TruncatedStreamFails : Prop :=
  (∀ s : State, s.abortSet = false → HasHeader s.inBuf → 8 * s.inBuf.length < declaredBits s.inBuf →
    ∃ t, exec .frmDes s = .next t ∧ t.Failing .truncatedData) ∧
  ∀ (s : State) (img : Image) (n : Nat), s.abortSet = false → img.Wf → n < (serialize config img).length →
    s.inBuf = (serialize config img).take n → ∃ t, exec .frmDes s = .next t ∧ t.Failing .truncatedData

/-! ## Image construction and views -/

/-- 44 R200: `IMG.NEW` checks dimensions, then descriptor, then pixel count; on success it stores a copy of `PIXIN` as it
is, on failure nothing. -/
def Obligations.ImgNewStoresOrRefuses : Prop :=
  (∀ (width height : Dim) (r g b : Byte),
    decode (0x50#8 ++ 0#8 ++ 0#8 ++ width ++ height ++ r ++ g ++ b : CmdWord) = .ok (.imgNew width height r g b)) ∧
  ∀ (width height : Dim) (r g b : Byte) (s : State), s.abortSet = false →
    ((width.toNat = 0 ∨ height.toNat = 0) → exec (.imgNew width height r g b) s = .next { s with
      resValid := false, st := .failed .invalidDimensions, reply := some (.result (.fail .invalidDimensions)) }) ∧
    (1 ≤ width.toNat → 1 ≤ height.toNat → (8 < r.toNat ∨ 8 < g.toNat ∨ 8 < b.toNat) →
      exec (.imgNew width height r g b) s = .next { s with
        resValid := false, st := .failed .invalidQuantization, reply := some (.result (.fail .invalidQuantization)) }) ∧
    (1 ≤ width.toNat → 1 ≤ height.toNat → r.toNat ≤ 8 → g.toNat ≤ 8 → b.toNat ≤ 8 →
      s.pixin.length ≠ width.toNat * height.toNat → exec (.imgNew width height r g b) s = .next { s with
        resValid := false, st := .failed .pixelCountMismatch, reply := some (.result (.fail .pixelCountMismatch)) }) ∧
    (1 ≤ width.toNat → 1 ≤ height.toNat → r.toNat ≤ 8 → g.toNat ≤ 8 → b.toNat ≤ 8 →
      s.pixin.length = width.toNat * height.toNat → ∃ t, exec (.imgNew width height r g b) s = .next t ∧
        t = { s with
          img := { width := width, height := height, q := t.img.q, pix := s.pixin }
          imgValid := true, resValid := false, st := .ok, reply := some (.result .ok) } ∧
        t.img.q.r.toNat = r.toNat ∧ t.img.q.g.toNat = g.toNat ∧ t.img.q.b.toNat = b.toNat)

/-- 44 R202: `IMG.COLORS` returns the pixels in row-major storage order, `width*height` of them; nothing else changes. -/
def Obligations.ImgColorsReturnsThePixels : Prop :=
  decode 0x51000000000000000000 = .ok .imgColors ∧
  (∀ s : State, s.abortSet = false → s.imgValid = true → s.img.Wf →
    exec .imgColors s = .next { s with
      resValid := false, st := .ok, reply := some (.result (.okColors s.img.pix)) } ∧
    s.img.pix.length = s.img.width.toNat * s.img.height.toNat) ∧
  ∀ s : State, s.abortSet = false → s.imgValid = false →
    exec .imgColors s = .next { s with
      abortSet := true, abortCause := .noImage, resValid := false, reply := some (.result (.abort .noImage)) }

/-- 44 R203: `IMG.PIXELS` returns `(i mod width, i div width, IMG.pix[i])` for every index, `x` from 0 to `width - 1`, `y` from
0 to `height - 1`. -/
def Obligations.ImgPixelsReturnsTheTriples : Prop :=
  decode 0x52000000000000000000 = .ok .imgPixels ∧
  (∀ s : State, s.abortSet = false → s.imgValid = true → s.img.Wf →
    ∃ ps, exec .imgPixels s = .next { s with
        resValid := false, st := .ok, reply := some (.result (.okPixels ps)) } ∧
      ps.length = s.img.width.toNat * s.img.height.toNat ∧
      (∀ i, i < ps.length →
        ps[i]? = (s.img.pixelAt i).map fun p => (i % s.img.width.toNat, i / s.img.width.toNat, p)) ∧
      ∀ e ∈ ps, e.1 < s.img.width.toNat ∧ e.2.1 < s.img.height.toNat) ∧
  ∀ s : State, s.abortSet = false → s.imgValid = false →
    exec .imgPixels s = .next { s with
      abortSet := true, abortCause := .noImage, resValid := false, reply := some (.result (.abort .noImage)) }

/-- 10_state R28, 44 R207: `IMG` is written only by `IMG.NEW` and `FRM.DES`; no command replaces a single pixel. -/
def Obligations.ImageChangesOnlyByNewAndDes : Prop :=
  ∀ (i : Instr) (s t : State), exec i s = .next t → (t.img ≠ s.img ∨ t.imgValid ≠ s.imgValid) →
    (i = .frmDes ∨ ∃ width height r g b, i = .imgNew width height r g b) ∧ t.Succeeding ∧ t.imgValid = true

/-! ## Results, failures and aborts -/

/-- 10_state R32: which commands set `RES`, `RES.valid` and `OUT`, and that a host read of an invalid `RES` faults. That a
host read is a step of its own, and that a read of a valid `RES` changes the host's list and the reply only, is the
model's choice (log 2, 4). -/
def Obligations.ResultRegistersFollowTheResult : Prop :=
  (∀ (i : Instr) (s t : State), s.abortSet = false → exec i s = .next t →
    (∀ v, t.reply = some (.result (.okValue v)) → t.res = v ∧ t.resValid = true) ∧
    ((∀ v, t.reply ≠ some (.result (.okValue v))) → t.resValid = false) ∧
    (∀ bs, t.reply = some (.result (.okBytes bs)) → t.out = bs ∧ t.outValid = true) ∧
    ((∀ bs, t.reply ≠ some (.result (.okBytes bs))) → t.out = s.out ∧ t.outValid = s.outValid) ∧
    (∀ v, t.reply = some (.result (.okValue v)) → (∃ w, i = .bsrRead w) ∨ (∃ b v, i = .qEnc b v) ∨
      (∃ b x, i = .qDec b x) ∨ i = .bswPos ∨ i = .bsrPos) ∧
    ∀ bs, t.reply = some (.result (.okBytes bs)) → i = .bswFin ∨ i = .frmSer ∨ i = .imgBytes) ∧
  ∀ (s : State) (rest : List HostAction), s.host = .readReg .res :: rest →
    (s.resValid = false → step s = .fault .resInvalid) ∧
    (s.resValid = true → step s = .next { s with host := rest, reply := some (.res s.res) })

/-- 10_state R33: `ST` is written by every command that ends in `ok` or `fail`, left by one that ends in `abort`, and no
command's behaviour depends on it. The codes are those of the table of 60_exceptions R220. -/
def Obligations.StatusFollowsTheResult : Prop :=
  (∀ (i : Instr) (s t : State), exec i s = .next t →
    (t.Succeeding → t.st.code = 0) ∧ (∀ f, t.Failing f → t.st.code = f.code) ∧ (∀ c, t.Aborting c → t.st = s.st)) ∧
  (∀ (i : Instr) (s t : State) (x : Status), exec i s = .next t →
    ∃ t', exec i { s with st := x } = .next t' ∧ { t' with st := t.st } = t) ∧
  Failure.invalidDimensions.code = 1 ∧ Failure.invalidQuantization.code = 2 ∧ Failure.pixelCountMismatch.code = 3 ∧
  Failure.magicMismatch.code = 4 ∧ Failure.truncatedData.code = 5 ∧ Failure.ioError.code = 6 ∧
  Failure.unsupportedFormat.code = 7

/-- 42 R157, 70 R262: no command reads the quantizer's registers. -/
def Obligations.NoCommandReadsTheDescriptor : Prop :=
  ∀ (i : Instr) (s t : State) (q : Descriptor) (b : Bool), exec i s = .next t →
    ∃ t', exec i { s with q := q, qValid := b } = .next t' ∧ { t' with q := t.q, qValid := t.qValid } = t

/-- 10_state R34: an abort is set by a contract violation and sticky: every command returns it and changes nothing, and
only reset clears it. Every other step changes only what is the host's own: its list, its staging buffers, the reply. -/
def Obligations.AbortIsStickyUntilReset : Prop :=
  (∀ (i : Instr) (s : State) (c : AbortCause), s.abortSet = false → violation s i = some c →
    ∃ t, exec i s = .next t ∧ t.abortSet = true ∧ t.abortCause = c ∧ t.Aborting c) ∧
  (∀ (i : Instr) (s : State), s.abortSet = true →
    exec i s = .next { s with reply := some (.result (.abort s.abortCause)) }) ∧
  (∀ (s t : State), s.abortSet = true → (∀ rest, s.host ≠ .reset :: rest) → step s = .next t →
    t = { s with host := t.host, reply := t.reply, inBuf := t.inBuf, pixin := t.pixin } ∧ t.abortSet = true) ∧
  ∀ (s : State) (rest : List HostAction), s.host = .reset :: rest → ∃ t, step s = .next t ∧ t.abortSet = false

/-- 60 R227: a command aborts exactly when it violates its contract, with the first cause in the order of its checks; the
abort writes `ABORT`, clears `RES.valid`, and leaves `ST` and everything else. The codes are those of R227's table. -/
def Obligations.CommandAbortsExactlyOnViolation : Prop :=
  (∀ (i : Instr) (s : State) (c : AbortCause), s.abortSet = false → violation s i = some c →
    exec i s = .next { s with
      abortSet := true, abortCause := c, resValid := false, reply := some (.result (.abort c)) }) ∧
  (∀ (i : Instr) (s t : State), s.abortSet = false → violation s i = none → exec i s = .next t →
    t.abortSet = false ∧ ∀ c, ¬ t.Aborting c) ∧
  AbortCause.illegalCmd.code = 1 ∧ AbortCause.badWidth.code = 2 ∧ AbortCause.valueTooWide.code = 3 ∧
  AbortCause.writerConsumed.code = 4 ∧ AbortCause.readerUnbound.code = 5 ∧ AbortCause.badBits.code = 6 ∧
  AbortCause.indexTooWide.code = 7 ∧ AbortCause.noImage.code = 8

/-- 60 R227, R229, 30_encoding R96: an illegal word aborts `ILLEGAL_CMD`, unless an abort already stands. -/
def Obligations.IllegalWordAborts : Prop :=
  ∀ (s : State) (w : CmdWord) (e : DecodeRefusal) (rest : List HostAction), s.host = .command w :: rest →
    decode w = .error e →
    (s.abortSet = false → step s = .next { s with
      abortSet := true, abortCause := .illegalCmd, resValid := false
      reply := some (.result (.abort .illegalCmd)), host := rest }) ∧
    (s.abortSet = true → step s = .next { s with
      reply := some (.result (.abort s.abortCause)), host := rest })

/-- 70 R266, 30_encoding R91 to R93: a command whose operands are in their legal ranges is never turned away for its
operands. -/
def Obligations.LegalOperandsAreNotAborted : Prop :=
  ∀ (i : Instr) (s t : State) (c : AbortCause), i.wellFormed = true → s.abortSet = false → exec i s = .next t →
    t.Aborting c → c = .writerConsumed ∨ c = .readerUnbound ∨ c = .noImage

/-- 60 R221: `InvalidDimensions` is raised exactly by `IMG.NEW` with a zero operand and by `FRM.DES` on a zero field. -/
def Obligations.InvalidDimensionsExactly : Prop :=
  ∀ (i : Instr) (s t : State), s.abortSet = false → exec i s = .next t →
    (t.Failing .invalidDimensions ↔
      (∃ width height r g b, i = .imgNew width height r g b ∧ (width.toNat = 0 ∨ height.toNat = 0)) ∨
      (i = .frmDes ∧ HasMagic s.inBuf ∧ 12 ≤ s.inBuf.length ∧ (fieldAt s.inBuf 64 16 = 0 ∨ fieldAt s.inBuf 80 16 = 0)))

/-- 60 R222: `InvalidQuantization` is raised exactly by `Q.NEW` and `IMG.NEW` on an operand of 9 to 255 and by `FRM.DES` on
a nibble of 9 to 15, where no earlier check of the same command fails. -/
def Obligations.InvalidQuantizationExactly : Prop :=
  ∀ (i : Instr) (s t : State), s.abortSet = false → exec i s = .next t →
    (t.Failing .invalidQuantization ↔
      (∃ r g b, i = .qNew r g b ∧ (8 < r.toNat ∨ 8 < g.toNat ∨ 8 < b.toNat)) ∨
      (∃ width height r g b, i = .imgNew width height r g b ∧ 1 ≤ width.toNat ∧ 1 ≤ height.toNat ∧
        (8 < r.toNat ∨ 8 < g.toNat ∨ 8 < b.toNat)) ∨
      (i = .frmDes ∧ HasDimensions s.inBuf ∧ 14 ≤ s.inBuf.length ∧
        (8 < fieldAt s.inBuf 96 4 ∨ 8 < fieldAt s.inBuf 100 4 ∨ 8 < fieldAt s.inBuf 104 4)))

/-- 60 R223: `PixelCountMismatch` is raised only by `IMG.NEW`, for a buffer too short or too long. -/
def Obligations.PixelCountMismatchExactly : Prop :=
  ∀ (i : Instr) (s t : State), s.abortSet = false → exec i s = .next t →
    (t.Failing .pixelCountMismatch ↔
      ∃ width height r g b, i = .imgNew width height r g b ∧ 1 ≤ width.toNat ∧ 1 ≤ height.toNat ∧
        r.toNat ≤ 8 ∧ g.toNat ≤ 8 ∧ b.toNat ≤ 8 ∧ s.pixin.length ≠ width.toNat * height.toNat)

/-- 60 R224: `MagicMismatch` is raised exactly by `FRM.DES` on a buffer of at least 8 bytes whose first 64 bits are not
`MAGIC`, regardless of the rest. -/
def Obligations.MagicMismatchExactly : Prop :=
  ∀ (i : Instr) (s t : State), s.abortSet = false → exec i s = .next t →
    (t.Failing .magicMismatch ↔
      i = .frmDes ∧ 8 ≤ s.inBuf.length ∧ fieldAt s.inBuf 0 64 ≠ 0x67726E666C643432)

/-- 60 R225: `TruncatedData` is raised exactly by `BSR.READ` of more bits than remain and by `FRM.DES` when one of its reads
runs out: in the magic, the dimensions, the descriptor or the pixel body, each only where the earlier checks passed. -/
def Obligations.TruncatedDataExactly : Prop :=
  ∀ (i : Instr) (s t : State), s.abortSet = false → exec i s = .next t →
    (t.Failing .truncatedData ↔
      (∃ w, i = .bsrRead w ∧ s.r.bound = true ∧ 1 ≤ w.toNat ∧ w.toNat ≤ 64 ∧
        8 * s.r.buf.length < s.r.cur + w.toNat) ∨
      (i = .frmDes ∧ (s.inBuf.length < 8 ∨ (HasMagic s.inBuf ∧ s.inBuf.length < 12) ∨
        (HasDimensions s.inBuf ∧ s.inBuf.length < 14) ∨
        (HasHeader s.inBuf ∧ 8 * s.inBuf.length < declaredBits s.inBuf))))

/-- 60 R226: no command returns `IoError` or `UnsupportedFormat`; their codes 6 and 7 are reserved. -/
def Obligations.CollaboratorFailuresNeverRaised : Prop :=
  (∀ (i : Instr) (s t : State), exec i s = .next t → ¬ t.Failing .ioError ∧ ¬ t.Failing .unsupportedFormat) ∧
  Failure.ioError.code = 6 ∧ Failure.unsupportedFormat.code = 7

/-- 60 R230, R238: what a failure changes, and which commands raise one. -/
def Obligations.WhatAFailureChanges : Prop :=
  ∀ (i : Instr) (s t : State) (f : Failure), s.abortSet = false → exec i s = .next t → t.Failing f →
    t = { s with r := t.r, resValid := false, st := .failed f, reply := some (.result (.fail f)) } ∧
    (i ≠ .frmDes → t.r = s.r) ∧
    ((∃ r g b, i = .qNew r g b) ∨ (∃ width height r g b, i = .imgNew width height r g b) ∨ i = .frmDes ∨
      ∃ w, i = .bsrRead w)

/-! ## Steps, reset and the invariant -/

/-- 00_scope R10: when the host's next action is a command word that decodes to `i`, the step is `exec i`. That the action is
taken off a list of the host's, and that the last reply is cleared, is the model's choice (log 2, 3). -/
def Obligations.StepRunsTheDecodedCommand : Prop :=
  ∀ (s : State) (w : CmdWord) (i : Instr) (rest : List HostAction), s.host = .command w :: rest → decode w = .ok i →
    step s = exec i { s with host := rest, reply := none }

/-- 70 R272: every command terminates: it always answers a next state. -/
def Obligations.EveryCommandCompletes : Prop :=
  ∀ (i : Instr) (s : State), ∃ t, exec i s = .next t ∧ t.host = s.host ∧ ∃ r, t.reply = some (.result r)

/-- The model's choice (log 2, 3, 4), resting on 10_state R30, R32, R33, R34 and 70 R260: what the host's other actions do. Filling
`IN` or `PIXIN` changes neither `R.buf` nor `IMG.pix`; with no action the block waits; a read behind a clear valid flag
faults; a read of `ST` or of `ABORT.set` always answers. -/
def Obligations.HostActionsOnThePort : Prop :=
  (∀ s : State, s.host = [] → step s = .next { s with reply := none }) ∧
  (∀ (s : State) (bytes : List Byte) (rest : List HostAction), s.host = .fillIn bytes :: rest →
    step s = .next { s with host := rest, reply := none, inBuf := bytes }) ∧
  (∀ (s : State) (pixels : List Rgb) (rest : List HostAction), s.host = .fillPixin pixels :: rest →
    step s = .next { s with host := rest, reply := none, pixin := pixels }) ∧
  (∀ (s : State) (rest : List HostAction), s.host = .readReg .out :: rest →
    (s.outValid = true → step s = .next { s with host := rest, reply := some (.out s.out) }) ∧
    (s.outValid = false → step s = .fault .outInvalid)) ∧
  (∀ (s : State) (rest : List HostAction), s.host = .readReg .st :: rest →
    step s = .next { s with host := rest, reply := some (.st s.st.code) }) ∧
  (∀ (s : State) (rest : List HostAction), s.host = .readReg .abortSet :: rest →
    step s = .next { s with host := rest, reply := some (.abortSet s.abortSet) }) ∧
  ∀ (s : State) (rest : List HostAction), s.host = .readReg .abortCause :: rest →
    (s.abortSet = true → step s = .next { s with host := rest, reply := some (.abortCause s.abortCause.code) }) ∧
    (s.abortSet = false → step s = .fault .abortCauseInvalid)

/-- 70 R261: the state after reset, at power-on and after a reset event alike, in the parts the spec gives: an empty open
writer, a reader with no buffer, no valid descriptor, no Image, no valid result, `ST = 0`, no abort. -/
def Obligations.ResetLeavesAnEmptyBlock : Prop :=
  (∀ t : State, (t = State.reset ∨ ∃ (s : State) (rest : List HostAction), s.host = .reset :: rest ∧ step s = .next t) →
    t.w = { buf := [], cur := 0, mode := .opened } ∧ t.r = { buf := [], cur := 0, bound := false } ∧
    t.qValid = false ∧ t.imgValid = false ∧ t.resValid = false ∧ t.outValid = false ∧ t.st.code = 0 ∧
    t.abortSet = false) ∧
  ∀ (s : State) (rest : List HostAction), s.host = .reset :: rest →
    ∃ t, step s = .next t ∧ t.inBuf = s.inBuf ∧ t.pixin = s.pixin

/-- The invariant holds after reset (10_state R21, R23, R24, R27). -/
def Obligations.ResetHasTheInvariant : Prop := State.reset.Inv

/-- 10_state R21, R23, R24, R27: every step keeps the invariant, from every state that has it. -/
def Obligations.StepKeepsTheInvariant : Prop :=
  ∀ s t : State, s.Inv → step s = .next t → t.Inv

/-! ## The command word -/

/-- 30_encoding R90 to R94: decoding the word of a command gives it back, for every command and every operand. -/
def Obligations.DecodeEncode : Prop := ∀ i : Instr, decode (encode i) = .ok i

/-- 30_encoding R94, R96: a word that decodes is the word of what it decodes to: no bit of it is dropped. -/
def Obligations.EncodeDecode : Prop := ∀ (w : CmdWord) (i : Instr), decode w = .ok i → encode i = w

/-- 30_encoding R94, R96: the decoder accepts exactly the words that a row of the opcode table admits, and the row is that of
the command. -/
def Obligations.DecoderFollowsTheOpcodeTable : Prop :=
  (∀ w : CmdWord, (∃ i, decode w = .ok i) ↔ ∃ i ∈ Instr.allRows, i.row.admits w = true) ∧
  ∀ (w : CmdWord) (i : Instr), decode w = .ok i → i.row.admits w = true

/-- 95_test_vectors: words of the decode table of section 2.7, and the words of `FRM.SER`, `FRM.DES` and `IMG.BYTES` in
program P3 of section 3. -/
def Obligations.DecodesTheSpecsWords : Prop :=
  decode 0x11030000000000000005 = .ok (.bswWrite 3 5) ∧
  decode 0x210C0000000000000000 = .ok (.bsrRead 12) ∧
  decode 0x210C0000000000000001 = .error .mustBeZero ∧
  decode 0x30000000000000090605 = .ok (.qNew 9 6 5) ∧
  decode 0x310500000000000000C8 = .ok (.qEnc 5 200) ∧
  decode 0x50000000020002050605 = .ok (.imgNew 2 2 5 6 5) ∧
  decode 0x22000000000000000000 = .error .unknownOp ∧
  decode 0x40000000000000000000 = .ok .frmSer ∧
  decode 0x41000000000000000000 = .ok .frmDes ∧
  decode 0x53000000000000000000 = .ok .imgBytes
end

