-- ==== Sys2Proof/Laws/State.lean ====
section
/-! SUPPORT. One lemma per field per named update of State, each true by `rfl`. -/

namespace Sys2Proof.Machine

variable (s : State)

/-! `State.answer` -/

@[simp] theorem State.answer_w (x : Result) : (s.answer x).w = s.w := rfl
@[simp] theorem State.answer_r (x : Result) : (s.answer x).r = s.r := rfl
@[simp] theorem State.answer_q (x : Result) : (s.answer x).q = s.q := rfl
@[simp] theorem State.answer_qValid (x : Result) : (s.answer x).qValid = s.qValid := rfl
@[simp] theorem State.answer_img (x : Result) : (s.answer x).img = s.img := rfl
@[simp] theorem State.answer_imgValid (x : Result) : (s.answer x).imgValid = s.imgValid := rfl
@[simp] theorem State.answer_res (x : Result) : (s.answer x).res = s.res := rfl
@[simp] theorem State.answer_resValid (x : Result) : (s.answer x).resValid = s.resValid := rfl
@[simp] theorem State.answer_out (x : Result) : (s.answer x).out = s.out := rfl
@[simp] theorem State.answer_outValid (x : Result) : (s.answer x).outValid = s.outValid := rfl
@[simp] theorem State.answer_st (x : Result) : (s.answer x).st = s.st := rfl
@[simp] theorem State.answer_abortSet (x : Result) : (s.answer x).abortSet = s.abortSet := rfl
@[simp] theorem State.answer_abortCause (x : Result) : (s.answer x).abortCause = s.abortCause := rfl
@[simp] theorem State.answer_inBuf (x : Result) : (s.answer x).inBuf = s.inBuf := rfl
@[simp] theorem State.answer_pixin (x : Result) : (s.answer x).pixin = s.pixin := rfl
@[simp] theorem State.answer_host (x : Result) : (s.answer x).host = s.host := rfl
@[simp] theorem State.answer_reply (x : Result) : (s.answer x).reply = some (.result x) := rfl

/-! `State.finish` -/

@[simp] theorem State.finish_w (x : Result) : (s.finish x).w = s.w := rfl
@[simp] theorem State.finish_r (x : Result) : (s.finish x).r = s.r := rfl
@[simp] theorem State.finish_q (x : Result) : (s.finish x).q = s.q := rfl
@[simp] theorem State.finish_qValid (x : Result) : (s.finish x).qValid = s.qValid := rfl
@[simp] theorem State.finish_img (x : Result) : (s.finish x).img = s.img := rfl
@[simp] theorem State.finish_imgValid (x : Result) : (s.finish x).imgValid = s.imgValid := rfl
@[simp] theorem State.finish_res (x : Result) : (s.finish x).res = s.res := rfl
@[simp] theorem State.finish_resValid (x : Result) : (s.finish x).resValid = false := rfl
@[simp] theorem State.finish_out (x : Result) : (s.finish x).out = s.out := rfl
@[simp] theorem State.finish_outValid (x : Result) : (s.finish x).outValid = s.outValid := rfl
@[simp] theorem State.finish_st (x : Result) : (s.finish x).st = .ok := rfl
@[simp] theorem State.finish_abortSet (x : Result) : (s.finish x).abortSet = s.abortSet := rfl
@[simp] theorem State.finish_abortCause (x : Result) : (s.finish x).abortCause = s.abortCause := rfl
@[simp] theorem State.finish_inBuf (x : Result) : (s.finish x).inBuf = s.inBuf := rfl
@[simp] theorem State.finish_pixin (x : Result) : (s.finish x).pixin = s.pixin := rfl
@[simp] theorem State.finish_host (x : Result) : (s.finish x).host = s.host := rfl
@[simp] theorem State.finish_reply (x : Result) : (s.finish x).reply = some (.result x) := rfl

/-! `State.finishValue` -/

@[simp] theorem State.finishValue_w (v : U64) : (s.finishValue v).w = s.w := rfl
@[simp] theorem State.finishValue_r (v : U64) : (s.finishValue v).r = s.r := rfl
@[simp] theorem State.finishValue_q (v : U64) : (s.finishValue v).q = s.q := rfl
@[simp] theorem State.finishValue_qValid (v : U64) : (s.finishValue v).qValid = s.qValid := rfl
@[simp] theorem State.finishValue_img (v : U64) : (s.finishValue v).img = s.img := rfl
@[simp] theorem State.finishValue_imgValid (v : U64) : (s.finishValue v).imgValid = s.imgValid := rfl
@[simp] theorem State.finishValue_res (v : U64) : (s.finishValue v).res = v := rfl
@[simp] theorem State.finishValue_resValid (v : U64) : (s.finishValue v).resValid = true := rfl
@[simp] theorem State.finishValue_out (v : U64) : (s.finishValue v).out = s.out := rfl
@[simp] theorem State.finishValue_outValid (v : U64) : (s.finishValue v).outValid = s.outValid := rfl
@[simp] theorem State.finishValue_st (v : U64) : (s.finishValue v).st = .ok := rfl
@[simp] theorem State.finishValue_abortSet (v : U64) : (s.finishValue v).abortSet = s.abortSet := rfl
@[simp] theorem State.finishValue_abortCause (v : U64) : (s.finishValue v).abortCause = s.abortCause := rfl
@[simp] theorem State.finishValue_inBuf (v : U64) : (s.finishValue v).inBuf = s.inBuf := rfl
@[simp] theorem State.finishValue_pixin (v : U64) : (s.finishValue v).pixin = s.pixin := rfl
@[simp] theorem State.finishValue_host (v : U64) : (s.finishValue v).host = s.host := rfl
@[simp] theorem State.finishValue_reply (v : U64) : (s.finishValue v).reply = some (.result (.okValue v)) := rfl

/-! `State.finishBytes` -/

@[simp] theorem State.finishBytes_w (bs : List Byte) : (s.finishBytes bs).w = s.w := rfl
@[simp] theorem State.finishBytes_r (bs : List Byte) : (s.finishBytes bs).r = s.r := rfl
@[simp] theorem State.finishBytes_q (bs : List Byte) : (s.finishBytes bs).q = s.q := rfl
@[simp] theorem State.finishBytes_qValid (bs : List Byte) : (s.finishBytes bs).qValid = s.qValid := rfl
@[simp] theorem State.finishBytes_img (bs : List Byte) : (s.finishBytes bs).img = s.img := rfl
@[simp] theorem State.finishBytes_imgValid (bs : List Byte) : (s.finishBytes bs).imgValid = s.imgValid := rfl
@[simp] theorem State.finishBytes_res (bs : List Byte) : (s.finishBytes bs).res = s.res := rfl
@[simp] theorem State.finishBytes_resValid (bs : List Byte) : (s.finishBytes bs).resValid = false := rfl
@[simp] theorem State.finishBytes_out (bs : List Byte) : (s.finishBytes bs).out = bs := rfl
@[simp] theorem State.finishBytes_outValid (bs : List Byte) : (s.finishBytes bs).outValid = true := rfl
@[simp] theorem State.finishBytes_st (bs : List Byte) : (s.finishBytes bs).st = .ok := rfl
@[simp] theorem State.finishBytes_abortSet (bs : List Byte) : (s.finishBytes bs).abortSet = s.abortSet := rfl
@[simp] theorem State.finishBytes_abortCause (bs : List Byte) : (s.finishBytes bs).abortCause = s.abortCause := rfl
@[simp] theorem State.finishBytes_inBuf (bs : List Byte) : (s.finishBytes bs).inBuf = s.inBuf := rfl
@[simp] theorem State.finishBytes_pixin (bs : List Byte) : (s.finishBytes bs).pixin = s.pixin := rfl
@[simp] theorem State.finishBytes_host (bs : List Byte) : (s.finishBytes bs).host = s.host := rfl
@[simp] theorem State.finishBytes_reply (bs : List Byte) : (s.finishBytes bs).reply = some (.result (.okBytes bs)) := rfl

/-! `State.failWith` -/

@[simp] theorem State.failWith_w (f : Failure) : (s.failWith f).w = s.w := rfl
@[simp] theorem State.failWith_r (f : Failure) : (s.failWith f).r = s.r := rfl
@[simp] theorem State.failWith_q (f : Failure) : (s.failWith f).q = s.q := rfl
@[simp] theorem State.failWith_qValid (f : Failure) : (s.failWith f).qValid = s.qValid := rfl
@[simp] theorem State.failWith_img (f : Failure) : (s.failWith f).img = s.img := rfl
@[simp] theorem State.failWith_imgValid (f : Failure) : (s.failWith f).imgValid = s.imgValid := rfl
@[simp] theorem State.failWith_res (f : Failure) : (s.failWith f).res = s.res := rfl
@[simp] theorem State.failWith_resValid (f : Failure) : (s.failWith f).resValid = false := rfl
@[simp] theorem State.failWith_out (f : Failure) : (s.failWith f).out = s.out := rfl
@[simp] theorem State.failWith_outValid (f : Failure) : (s.failWith f).outValid = s.outValid := rfl
@[simp] theorem State.failWith_st (f : Failure) : (s.failWith f).st = .failed f := rfl
@[simp] theorem State.failWith_abortSet (f : Failure) : (s.failWith f).abortSet = s.abortSet := rfl
@[simp] theorem State.failWith_abortCause (f : Failure) : (s.failWith f).abortCause = s.abortCause := rfl
@[simp] theorem State.failWith_inBuf (f : Failure) : (s.failWith f).inBuf = s.inBuf := rfl
@[simp] theorem State.failWith_pixin (f : Failure) : (s.failWith f).pixin = s.pixin := rfl
@[simp] theorem State.failWith_host (f : Failure) : (s.failWith f).host = s.host := rfl
@[simp] theorem State.failWith_reply (f : Failure) : (s.failWith f).reply = some (.result (.fail f)) := rfl

/-! `State.takeAbort` -/

@[simp] theorem State.takeAbort_w (c : AbortCause) : (s.takeAbort c).w = s.w := rfl
@[simp] theorem State.takeAbort_r (c : AbortCause) : (s.takeAbort c).r = s.r := rfl
@[simp] theorem State.takeAbort_q (c : AbortCause) : (s.takeAbort c).q = s.q := rfl
@[simp] theorem State.takeAbort_qValid (c : AbortCause) : (s.takeAbort c).qValid = s.qValid := rfl
@[simp] theorem State.takeAbort_img (c : AbortCause) : (s.takeAbort c).img = s.img := rfl
@[simp] theorem State.takeAbort_imgValid (c : AbortCause) : (s.takeAbort c).imgValid = s.imgValid := rfl
@[simp] theorem State.takeAbort_res (c : AbortCause) : (s.takeAbort c).res = s.res := rfl
@[simp] theorem State.takeAbort_resValid (c : AbortCause) : (s.takeAbort c).resValid = false := rfl
@[simp] theorem State.takeAbort_out (c : AbortCause) : (s.takeAbort c).out = s.out := rfl
@[simp] theorem State.takeAbort_outValid (c : AbortCause) : (s.takeAbort c).outValid = s.outValid := rfl
@[simp] theorem State.takeAbort_st (c : AbortCause) : (s.takeAbort c).st = s.st := rfl
@[simp] theorem State.takeAbort_abortSet (c : AbortCause) : (s.takeAbort c).abortSet = true := rfl
@[simp] theorem State.takeAbort_abortCause (c : AbortCause) : (s.takeAbort c).abortCause = c := rfl
@[simp] theorem State.takeAbort_inBuf (c : AbortCause) : (s.takeAbort c).inBuf = s.inBuf := rfl
@[simp] theorem State.takeAbort_pixin (c : AbortCause) : (s.takeAbort c).pixin = s.pixin := rfl
@[simp] theorem State.takeAbort_host (c : AbortCause) : (s.takeAbort c).host = s.host := rfl
@[simp] theorem State.takeAbort_reply (c : AbortCause) : (s.takeAbort c).reply = some (.result (.abort c)) := rfl

/-! `State.applyReset` -/

@[simp] theorem State.applyReset_w : s.applyReset.w = State.reset.w := rfl
@[simp] theorem State.applyReset_r : s.applyReset.r = State.reset.r := rfl
@[simp] theorem State.applyReset_q : s.applyReset.q = State.reset.q := rfl
@[simp] theorem State.applyReset_qValid : s.applyReset.qValid = State.reset.qValid := rfl
@[simp] theorem State.applyReset_img : s.applyReset.img = State.reset.img := rfl
@[simp] theorem State.applyReset_imgValid : s.applyReset.imgValid = State.reset.imgValid := rfl
@[simp] theorem State.applyReset_res : s.applyReset.res = State.reset.res := rfl
@[simp] theorem State.applyReset_resValid : s.applyReset.resValid = State.reset.resValid := rfl
@[simp] theorem State.applyReset_out : s.applyReset.out = State.reset.out := rfl
@[simp] theorem State.applyReset_outValid : s.applyReset.outValid = State.reset.outValid := rfl
@[simp] theorem State.applyReset_st : s.applyReset.st = State.reset.st := rfl
@[simp] theorem State.applyReset_abortSet : s.applyReset.abortSet = State.reset.abortSet := rfl
@[simp] theorem State.applyReset_abortCause : s.applyReset.abortCause = State.reset.abortCause := rfl
@[simp] theorem State.applyReset_inBuf : s.applyReset.inBuf = s.inBuf := rfl
@[simp] theorem State.applyReset_pixin : s.applyReset.pixin = s.pixin := rfl
@[simp] theorem State.applyReset_host : s.applyReset.host = s.host := rfl
@[simp] theorem State.applyReset_reply : s.applyReset.reply = State.reset.reply := rfl

/-! `State.took` -/

@[simp] theorem State.took_w (l : List HostAction) : (s.took l).w = s.w := rfl
@[simp] theorem State.took_r (l : List HostAction) : (s.took l).r = s.r := rfl
@[simp] theorem State.took_q (l : List HostAction) : (s.took l).q = s.q := rfl
@[simp] theorem State.took_qValid (l : List HostAction) : (s.took l).qValid = s.qValid := rfl
@[simp] theorem State.took_img (l : List HostAction) : (s.took l).img = s.img := rfl
@[simp] theorem State.took_imgValid (l : List HostAction) : (s.took l).imgValid = s.imgValid := rfl
@[simp] theorem State.took_res (l : List HostAction) : (s.took l).res = s.res := rfl
@[simp] theorem State.took_resValid (l : List HostAction) : (s.took l).resValid = s.resValid := rfl
@[simp] theorem State.took_out (l : List HostAction) : (s.took l).out = s.out := rfl
@[simp] theorem State.took_outValid (l : List HostAction) : (s.took l).outValid = s.outValid := rfl
@[simp] theorem State.took_st (l : List HostAction) : (s.took l).st = s.st := rfl
@[simp] theorem State.took_abortSet (l : List HostAction) : (s.took l).abortSet = s.abortSet := rfl
@[simp] theorem State.took_abortCause (l : List HostAction) : (s.took l).abortCause = s.abortCause := rfl
@[simp] theorem State.took_inBuf (l : List HostAction) : (s.took l).inBuf = s.inBuf := rfl
@[simp] theorem State.took_pixin (l : List HostAction) : (s.took l).pixin = s.pixin := rfl
@[simp] theorem State.took_host (l : List HostAction) : (s.took l).host = l := rfl
@[simp] theorem State.took_reply (l : List HostAction) : (s.took l).reply = none := rfl

/-! `State.idle` -/

@[simp] theorem State.idle_w : s.idle.w = s.w := rfl
@[simp] theorem State.idle_r : s.idle.r = s.r := rfl
@[simp] theorem State.idle_q : s.idle.q = s.q := rfl
@[simp] theorem State.idle_qValid : s.idle.qValid = s.qValid := rfl
@[simp] theorem State.idle_img : s.idle.img = s.img := rfl
@[simp] theorem State.idle_imgValid : s.idle.imgValid = s.imgValid := rfl
@[simp] theorem State.idle_res : s.idle.res = s.res := rfl
@[simp] theorem State.idle_resValid : s.idle.resValid = s.resValid := rfl
@[simp] theorem State.idle_out : s.idle.out = s.out := rfl
@[simp] theorem State.idle_outValid : s.idle.outValid = s.outValid := rfl
@[simp] theorem State.idle_st : s.idle.st = s.st := rfl
@[simp] theorem State.idle_abortSet : s.idle.abortSet = s.abortSet := rfl
@[simp] theorem State.idle_abortCause : s.idle.abortCause = s.abortCause := rfl
@[simp] theorem State.idle_inBuf : s.idle.inBuf = s.inBuf := rfl
@[simp] theorem State.idle_pixin : s.idle.pixin = s.pixin := rfl
@[simp] theorem State.idle_host : s.idle.host = s.host := rfl
@[simp] theorem State.idle_reply : s.idle.reply = none := rfl

/-! `State.fillIn` -/

@[simp] theorem State.fillIn_w (bs : List Byte) : (s.fillIn bs).w = s.w := rfl
@[simp] theorem State.fillIn_r (bs : List Byte) : (s.fillIn bs).r = s.r := rfl
@[simp] theorem State.fillIn_q (bs : List Byte) : (s.fillIn bs).q = s.q := rfl
@[simp] theorem State.fillIn_qValid (bs : List Byte) : (s.fillIn bs).qValid = s.qValid := rfl
@[simp] theorem State.fillIn_img (bs : List Byte) : (s.fillIn bs).img = s.img := rfl
@[simp] theorem State.fillIn_imgValid (bs : List Byte) : (s.fillIn bs).imgValid = s.imgValid := rfl
@[simp] theorem State.fillIn_res (bs : List Byte) : (s.fillIn bs).res = s.res := rfl
@[simp] theorem State.fillIn_resValid (bs : List Byte) : (s.fillIn bs).resValid = s.resValid := rfl
@[simp] theorem State.fillIn_out (bs : List Byte) : (s.fillIn bs).out = s.out := rfl
@[simp] theorem State.fillIn_outValid (bs : List Byte) : (s.fillIn bs).outValid = s.outValid := rfl
@[simp] theorem State.fillIn_st (bs : List Byte) : (s.fillIn bs).st = s.st := rfl
@[simp] theorem State.fillIn_abortSet (bs : List Byte) : (s.fillIn bs).abortSet = s.abortSet := rfl
@[simp] theorem State.fillIn_abortCause (bs : List Byte) : (s.fillIn bs).abortCause = s.abortCause := rfl
@[simp] theorem State.fillIn_inBuf (bs : List Byte) : (s.fillIn bs).inBuf = bs := rfl
@[simp] theorem State.fillIn_pixin (bs : List Byte) : (s.fillIn bs).pixin = s.pixin := rfl
@[simp] theorem State.fillIn_host (bs : List Byte) : (s.fillIn bs).host = s.host := rfl
@[simp] theorem State.fillIn_reply (bs : List Byte) : (s.fillIn bs).reply = s.reply := rfl

/-! `State.fillPixin` -/

@[simp] theorem State.fillPixin_w (ps : List Rgb) : (s.fillPixin ps).w = s.w := rfl
@[simp] theorem State.fillPixin_r (ps : List Rgb) : (s.fillPixin ps).r = s.r := rfl
@[simp] theorem State.fillPixin_q (ps : List Rgb) : (s.fillPixin ps).q = s.q := rfl
@[simp] theorem State.fillPixin_qValid (ps : List Rgb) : (s.fillPixin ps).qValid = s.qValid := rfl
@[simp] theorem State.fillPixin_img (ps : List Rgb) : (s.fillPixin ps).img = s.img := rfl
@[simp] theorem State.fillPixin_imgValid (ps : List Rgb) : (s.fillPixin ps).imgValid = s.imgValid := rfl
@[simp] theorem State.fillPixin_res (ps : List Rgb) : (s.fillPixin ps).res = s.res := rfl
@[simp] theorem State.fillPixin_resValid (ps : List Rgb) : (s.fillPixin ps).resValid = s.resValid := rfl
@[simp] theorem State.fillPixin_out (ps : List Rgb) : (s.fillPixin ps).out = s.out := rfl
@[simp] theorem State.fillPixin_outValid (ps : List Rgb) : (s.fillPixin ps).outValid = s.outValid := rfl
@[simp] theorem State.fillPixin_st (ps : List Rgb) : (s.fillPixin ps).st = s.st := rfl
@[simp] theorem State.fillPixin_abortSet (ps : List Rgb) : (s.fillPixin ps).abortSet = s.abortSet := rfl
@[simp] theorem State.fillPixin_abortCause (ps : List Rgb) : (s.fillPixin ps).abortCause = s.abortCause := rfl
@[simp] theorem State.fillPixin_inBuf (ps : List Rgb) : (s.fillPixin ps).inBuf = s.inBuf := rfl
@[simp] theorem State.fillPixin_pixin (ps : List Rgb) : (s.fillPixin ps).pixin = ps := rfl
@[simp] theorem State.fillPixin_host (ps : List Rgb) : (s.fillPixin ps).host = s.host := rfl
@[simp] theorem State.fillPixin_reply (ps : List Rgb) : (s.fillPixin ps).reply = s.reply := rfl

end Sys2Proof.Machine
end

