-- ==== Sys2Proof/Laws/Control.lean ====
section
/-! SUPPORT. What the shared beginnings and endings of a command can do: the check of `ABORT.set`, a contract check, a
failure check (10_state R34; 60_exceptions R227, R229, R230). -/

namespace Sys2Proof.Machine

variable {s t : State} {body : State → State}

theorem State.unlessAborted_set (h : s.abortSet = true) : s.unlessAborted body = s.answer (.abort s.abortCause) := by
  simp [State.unlessAborted, h]

theorem State.unlessAborted_clear (h : s.abortSet = false) : s.unlessAborted body = body s := by
  simp [State.unlessAborted, h]

/-- Everything the check of `ABORT.set` can do. -/
theorem State.unlessAborted_cases (h : s.unlessAborted body = t) :
    (s.abortSet = true ∧ t = s.answer (.abort s.abortCause)) ∨ (s.abortSet = false ∧ t = body s) := by
  cases hs : s.abortSet
  · exact .inr ⟨rfl, by rw [← h, State.unlessAborted_clear hs]⟩
  · exact .inl ⟨rfl, by rw [← h, State.unlessAborted_set hs]⟩

@[simp] theorem State.require_true {c : AbortCause} : s.require true c body = body s := rfl

@[simp] theorem State.require_false {c : AbortCause} : s.require false c body = s.takeAbort c := rfl

/-- Everything a contract check can do. -/
theorem State.require_cases {holds : Bool} {c : AbortCause} (h : s.require holds c body = t) :
    (holds = true ∧ t = body s) ∨ (holds = false ∧ t = s.takeAbort c) := by
  cases holds
  · exact .inr ⟨rfl, h.symm⟩
  · exact .inl ⟨rfl, h.symm⟩

@[simp] theorem State.check_true {f : Failure} : s.check true f body = body s := rfl

@[simp] theorem State.check_false {f : Failure} : s.check false f body = s.failWith f := rfl

/-- Everything a failure check can do. -/
theorem State.check_cases {holds : Bool} {f : Failure} (h : s.check holds f body = t) :
    (holds = true ∧ t = body s) ∨ (holds = false ∧ t = s.failWith f) := by
  cases holds
  · exact .inr ⟨rfl, h.symm⟩
  · exact .inl ⟨rfl, h.symm⟩

/-- Everything the check that the writer is open can do (40 R114). -/
theorem State.ifOpen_cases (h : s.ifOpen body = t) :
    (s.w.mode = .opened ∧ t = body s) ∨ (s.w.mode = .consumed ∧ t = s.takeAbort .writerConsumed) := by
  rcases State.require_cases h with ⟨hm, ht⟩ | ⟨hm, ht⟩
  · exact .inl ⟨by simpa using hm, ht⟩
  · refine .inr ⟨?_, ht⟩
    cases hw : s.w.mode
    · simp [hw] at hm
    · rfl

theorem State.ifOpen_opened (h : s.w.mode = .opened) : s.ifOpen body = body s := by simp [State.ifOpen, h]

theorem State.ifOpen_consumed (h : s.w.mode = .consumed) : s.ifOpen body = s.takeAbort .writerConsumed := by
  rw [State.ifOpen, h]
  rfl

/-- Everything the check that a buffer is bound can do (41 R131). -/
theorem State.ifBound_cases (h : s.ifBound body = t) :
    (s.r.bound = true ∧ t = body s) ∨ (s.r.bound = false ∧ t = s.takeAbort .readerUnbound) :=
  State.require_cases h

/-- Everything the check that an Image is present can do (43 R170). -/
theorem State.ifImage_cases (h : s.ifImage body = t) :
    (s.imgValid = true ∧ t = body s) ∨ (s.imgValid = false ∧ t = s.takeAbort .noImage) :=
  State.require_cases h

/-- The width check of `BSW.WRITE` and `BSR.READ`, as arithmetic (20_memory R58). -/
theorem widthInRange_eq_true {w : Byte} : widthInRange w = true ↔ 1 ≤ w.toNat ∧ w.toNat ≤ 64 := by
  simp [widthInRange]

/-- The value check of `BSW.WRITE`, as arithmetic (40 R111). -/
theorem valueFits_eq_true {w : Byte} {v : U64} : valueFits w v = true ↔ v.toNat < 2 ^ w.toNat := by
  simp [valueFits]

theorem bitsInRange_eq_true {bits : Byte} : bitsInRange bits = true ↔ bits.toNat ≤ 8 := by
  simp [bitsInRange]

theorem indexFits_eq_true {bits index : Byte} : indexFits bits index = true ↔ index.toNat < 2 ^ bits.toNat := by
  simp [indexFits]

theorem channelWidthsLegal_eq_true {r g b : Byte} :
    channelWidthsLegal r g b = true ↔ r.toNat ≤ 8 ∧ g.toNat ≤ 8 ∧ b.toNat ≤ 8 := by
  simp [channelWidthsLegal, and_assoc]

theorem dimensionsLegal_eq_true {width height : Dim} :
    dimensionsLegal width height = true ↔ 1 ≤ width.toNat ∧ 1 ≤ height.toNat := by
  have key : ∀ d : Dim, d ≠ 0 ↔ 1 ≤ d.toNat := fun d => by
    rw [ne_eq, ← BitVec.toNat_inj]; simp; omega
  simp only [dimensionsLegal, Bool.and_eq_true, bne_iff_ne, key]

theorem Descriptor.legal_eq_true {q : Descriptor} :
    q.legal = true ↔ q.r.toNat ≤ 8 ∧ q.g.toNat ≤ 8 ∧ q.b.toNat ≤ 8 := by
  simp [Descriptor.legal, and_assoc]

/-- A descriptor made of legal widths holds them (42 R150). -/
theorem descriptorOf_toNat {r g b : Byte} (h : channelWidthsLegal r g b = true) :
    (descriptorOf r g b).r.toNat = r.toNat ∧ (descriptorOf r g b).g.toNat = g.toNat ∧
      (descriptorOf r g b).b.toNat = b.toNat := by
  obtain ⟨hr, hg, hb⟩ := channelWidthsLegal_eq_true.mp h
  simp only [descriptorOf, BitVec.toNat_setWidth]
  omega

theorem descriptorOf_legal {r g b : Byte} (h : channelWidthsLegal r g b = true) :
    (descriptorOf r g b).legal = true := by
  obtain ⟨h1, h2, h3⟩ := descriptorOf_toNat h
  rw [Descriptor.legal_eq_true, h1, h2, h3]
  exact channelWidthsLegal_eq_true.mp h

end Sys2Proof.Machine
end

