-- ==== Sys2Proof/Laws/Streams.lean ====
section
/-! SUPPORT. What the bit loops of the writer and the reader do, said once (40 R112; 41 R131; 30_encoding R84). -/

namespace Sys2Proof.Machine

/-- The byte of a bit has it in position 0 and nothing else. -/
theorem getLsbD_bitByte (bit : Bool) (i : Nat) : (bitByte bit).getLsbD i = (bit && decide (i = 0)) := by
  cases i <;> cases bit <;> simp [bitByte]

/-- A bit beyond the buffer reads as false. -/
theorem sbit_of_le {buf : List Byte} {k : Nat} (h : bitlen buf ≤ k) : sbit buf k = false := by
  have : buf.length ≤ k / 8 := by unfold bitlen at h; omega
  simp [sbit, List.getD_eq_getElem?_getD, List.getElem?_eq_none this]

/-- The bits past the cursor are 0, in and beyond the buffer. -/
theorem Writer.Wf.pad {w : Writer} (h : w.Wf) {k : Nat} (hk : w.cur ≤ k) : sbit w.buf k = false := by
  by_cases hb : k < bitlen w.buf
  · exact h.2 k hb hk
  · exact sbit_of_le (by omega)

/-- The buffer of a well-formed writer ends less than a byte after its cursor. -/
theorem Writer.Wf.bitlen_eq {w : Writer} (h : w.Wf) : bitlen w.buf = 8 * bytesFor w.cur := by
  simp [bitlen, h.1]

theorem putBit_length {buf : List Byte} {k : Nat} {bit : Bool} (h : buf.length = bytesFor k) :
    (putBit buf k bit).length = bytesFor (k + 1) := by
  unfold putBit bytesFor at *
  split <;> simp [h] <;> omega

/-- One write of a bit sets the bit at the cursor and no other. -/
theorem sbit_putBit {buf : List Byte} {k : Nat} {bit : Bool} (h : buf.length = bytesFor k)
    (pad : ∀ j, k ≤ j → sbit buf j = false) (j : Nat) :
    sbit (putBit buf k bit) j = if j = k then bit else sbit buf j := by
  have grown : ∀ j, sbit (if k % 8 = 0 then buf ++ [0] else buf) j = sbit buf j := by
    intro j
    split
    · simp only [sbit, List.getD_eq_getElem?_getD, List.getElem?_append]
      split
      · rfl
      · rename_i hlt
        rw [List.getElem?_eq_none (Nat.le_of_not_lt hlt)]
        cases hm : j / 8 - buf.length <;> simp
    · rfl
  have len : k / 8 < (if k % 8 = 0 then buf ++ [0] else buf).length := by
    unfold bytesFor at h
    split <;> (try simp only [List.length_append, List.length_singleton]) <;> omega
  generalize hg : (if k % 8 = 0 then buf ++ [0] else buf) = g at grown len
  have key : sbit (putBit buf k bit) j =
      if j / 8 = k / 8 then (sbit g j || (bit && decide (7 - j % 8 = 7 - k % 8))) else sbit g j := by
    unfold putBit
    rw [hg]
    simp only [sbit, List.getD_eq_getElem?_getD, List.getElem?_modify]
    by_cases hj : k / 8 = j / 8
    · have hj' : j / 8 < g.length := hj ▸ len
      simp only [hj, List.getElem?_eq_getElem hj', Option.map_eq_map, Option.map_some, Option.getD_some, if_true,
        BitVec.getLsbD_or, BitVec.getLsbD_shiftLeft, getLsbD_bitByte]
      congr 1
      have h1 : 7 - j % 8 < 8 := by omega
      simp only [h1, decide_true, Bool.true_and]
      by_cases he : 7 - j % 8 = 7 - k % 8
      · simp [he]
      · cases bit
        · simp
        · simp only [Bool.true_and, he, decide_false, Bool.and_eq_false_iff, Bool.not_eq_eq_eq_not, Bool.not_false,
            decide_eq_true_eq, decide_eq_false_iff_not]
          omega
    · have hj2 : ¬ j / 8 = k / 8 := fun h => hj h.symm
      simp [hj, hj2]
  rw [key, grown]
  by_cases he : j = k
  · subst he
    simp [pad j (Nat.le_refl _)]
  · simp only [he, if_false]
    split
    · have : ¬ (7 - j % 8 = 7 - k % 8) := by omega
      simp [this]
    · rfl

/-- What `putBits` does, whole: the new length, and every bit of the stream after it (40 R112). -/
theorem putBits_spec (v : U64) (n : Nat) : ∀ (k : Nat) (buf : List Byte), buf.length = bytesFor k →
    (∀ j, k ≤ j → sbit buf j = false) →
    (putBits v n k buf).length = bytesFor (k + n) ∧
    ∀ j, sbit (putBits v n k buf) j =
      if k ≤ j ∧ j < k + n then v.getLsbD (n - 1 - (j - k)) else sbit buf j := by
  induction n with
  | zero =>
    intro k buf h _
    refine ⟨h, fun j => ?_⟩
    rw [if_neg (by omega)]
    rfl
  | succ n ih =>
    intro k buf h pad
    have pad' : ∀ j, k + 1 ≤ j → sbit (putBit buf k (v.getLsbD n)) j = false := by
      intro j hj
      rw [sbit_putBit h pad, if_neg (by omega), pad j (by omega)]
    obtain ⟨hl, hb⟩ := ih (k + 1) (putBit buf k (v.getLsbD n)) (putBit_length h) pad'
    refine ⟨by rw [putBits, hl]; congr 1; omega, fun j => ?_⟩
    rw [putBits, hb, sbit_putBit h pad]
    by_cases hk : j = k
    · subst hk
      rw [if_neg (by omega), if_pos rfl, if_pos (by omega)]
      congr 1; omega
    · by_cases hr : k ≤ j ∧ j < k + (n + 1)
      · rw [if_pos (by omega), if_pos hr]
        congr 1; omega
      · rw [if_neg (by omega), if_neg hk, if_neg hr]

/-- What appending a field does to a well-formed writer, whole (40 R112). -/
theorem Writer.put_spec {w : Writer} (h : w.Wf) (n : Nat) (v : U64) :
    (w.put n v).Wf ∧ (w.put n v).cur = w.cur + n ∧ (w.put n v).mode = w.mode ∧
    ∀ j, sbit (w.put n v).buf j =
      if w.cur ≤ j ∧ j < w.cur + n then v.getLsbD (n - 1 - (j - w.cur)) else sbit w.buf j := by
  obtain ⟨hl, hb⟩ := putBits_spec v n w.cur w.buf h.1 (fun j hj => h.pad hj)
  refine ⟨⟨hl, fun k _ hk => ?_⟩, rfl, rfl, hb⟩
  have hk' : w.cur + n ≤ k := hk
  change sbit (putBits v n w.cur w.buf) k = false
  rw [hb, if_neg (by omega), h.pad (by omega)]

/-- What `getBits` does, whole: the bits read come first, the bits it began with are shifted up (41 R131). -/
theorem getLsbD_getBits (buf : List Byte) (n : Nat) : ∀ (k : Nat) (val : U64) (i : Nat), i < 64 →
    (getBits buf n k val).getLsbD i = if i < n then sbit buf (k + n - 1 - i) else val.getLsbD (i - n) := by
  induction n with
  | zero => intro k val i _; simp [getBits]
  | succ n ih =>
    intro k val i hi
    rw [getBits, ih (k + 1) _ i hi]
    by_cases h1 : i < n
    · rw [if_pos h1, if_pos (by omega)]
      congr 1; omega
    · rw [if_neg h1]
      by_cases h2 : i = n
      · subst h2
        simp
      · have h0 : ¬ (i - n < 1) := by omega
        have h3 : i - n ≠ 0 := by omega
        have h4 : i - n < 64 := by omega
        rw [if_neg (by omega)]
        simp [h3, h4]
        congr 1

/-- The bits of the field a reader is about to read (30_encoding R84). -/
theorem Reader.getLsbD_field (r : Reader) {n i : Nat} (hn : n ≤ 64) :
    (r.field n).getLsbD i = (decide (i < n) && sbit r.buf (r.cur + n - 1 - i)) := by
  by_cases hi : i < 64
  · rw [Reader.field, getLsbD_getBits r.buf n r.cur 0 i hi]
    by_cases h : i < n <;> simp [h]
  · rw [BitVec.getLsbD_of_ge _ _ (by omega)]
    have : ¬ i < n := by omega
    simp [this]

/-- A field of `n` bits is below `2^n` (30_encoding R84). -/
theorem Reader.field_lt (r : Reader) {n : Nat} (hn : n ≤ 64) : (r.field n).toNat < 2 ^ n := by
  apply Nat.lt_pow_two_of_testBit
  intro i hi
  have h := r.getLsbD_field (i := i) hn
  rw [BitVec.getLsbD] at h
  rw [h]
  simp [Nat.not_lt.mpr hi]

/-- A reader whose next `n` bits are those of a value that fits reads that value. -/
theorem Reader.field_eq (r : Reader) {n : Nat} (hn : n ≤ 64) {v : U64} (hv : v.toNat < 2 ^ n)
    (hbits : ∀ i, i < n → sbit r.buf (r.cur + i) = v.getLsbD (n - 1 - i)) : r.field n = v := by
  apply BitVec.eq_of_getLsbD_eq
  intro i hi
  rw [r.getLsbD_field hn]
  by_cases h : i < n
  · have := hbits (n - 1 - i) (by omega)
    rw [show r.cur + n - 1 - i = r.cur + (n - 1 - i) by omega, this]
    simp only [h, decide_true, Bool.true_and]
    congr 1; omega
  · simp only [h, decide_false, Bool.false_and]
    symm
    rw [BitVec.getLsbD]
    exact Nat.testBit_lt_two_pow (Nat.lt_of_lt_of_le hv (Nat.pow_le_pow_right (by omega) (by omega)))

end Sys2Proof.Machine
end

