-- ==== Sys2Proof/Laws/Memory.lean ====
section
/-! SUPPORT. Every operation over the three spaces keeps their form (10_state R21, R23, R27; log 12), and reset has it. -/

namespace Sys2Proof.Machine

/-! ## The writer -/

theorem Writer.fresh_wf : Writer.fresh.Wf := by decide

theorem Writer.put_wf {w : Writer} (h : w.Wf) (n : Nat) (v : U64) : (w.put n v).Wf := (Writer.put_spec h n v).1

theorem Writer.finalize_wf {w : Writer} (h : w.Wf) : w.finalize.Wf := h

@[simp] theorem Writer.put_cur (w : Writer) (n : Nat) (v : U64) : (w.put n v).cur = w.cur + n := rfl

@[simp] theorem Writer.put_mode (w : Writer) (n : Nat) (v : U64) : (w.put n v).mode = w.mode := rfl

theorem putChannel_wf {w : Writer} (h : w.Wf) (bits : Nat) (value : Byte) : (putChannel bits value w).Wf := by
  unfold putChannel
  split
  · exact h
  · exact Writer.put_wf h _ _

@[simp] theorem putChannel_cur (w : Writer) (bits : Nat) (value : Byte) : (putChannel bits value w).cur = w.cur + bits := by
  unfold putChannel
  split <;> simp_all

@[simp] theorem putChannel_mode (w : Writer) (bits : Nat) (value : Byte) : (putChannel bits value w).mode = w.mode := by
  unfold putChannel
  split <;> rfl

theorem putPixel_wf {w : Writer} (h : w.Wf) (q : Descriptor) (p : Rgb) : (putPixel q w p).Wf :=
  putChannel_wf (putChannel_wf (putChannel_wf h _ _) _ _) _ _

@[simp] theorem putPixel_cur (w : Writer) (q : Descriptor) (p : Rgb) : (putPixel q w p).cur = w.cur + q.pixelBits := by
  simp [putPixel, Descriptor.pixelBits]; omega

@[simp] theorem putPixel_mode (w : Writer) (q : Descriptor) (p : Rgb) : (putPixel q w p).mode = w.mode := by
  simp [putPixel]

theorem putHeader_wf {w : Writer} (h : w.Wf) (c : Config) (img : Image) : (putHeader c img w).Wf := by
  have := Writer.put_wf (Writer.put_wf (Writer.put_wf (Writer.put_wf (Writer.put_wf (Writer.put_wf h 64 c.magic) 16
    (img.width.setWidth 64)) 16 (img.height.setWidth 64)) 4 (img.q.r.setWidth 64)) 4 (img.q.g.setWidth 64)) 4
    (img.q.b.setWidth 64)
  unfold putHeader putHeaderPad
  split
  · exact this
  · exact Writer.put_wf this _ _

@[simp] theorem putHeader_cur (w : Writer) (c : Config) (img : Image) :
    (putHeader c img w).cur = w.cur + headerBits c := by
  unfold putHeader putHeaderPad headerBits
  cases c.hdrPad <;> simp [hdrPadBits]

@[simp] theorem putHeader_mode (w : Writer) (c : Config) (img : Image) : (putHeader c img w).mode = w.mode := by
  unfold putHeader putHeaderPad
  cases c.hdrPad <;> rfl

/-- What writing a list of pixels does to the cursor, the mode and the form (43 R171). -/
theorem foldl_putPixel (q : Descriptor) (ps : List Rgb) : ∀ w : Writer, w.Wf →
    (ps.foldl (putPixel q) w).Wf ∧ (ps.foldl (putPixel q) w).cur = w.cur + ps.length * q.pixelBits ∧
      (ps.foldl (putPixel q) w).mode = w.mode := by
  induction ps with
  | nil => exact fun w h => ⟨h, by simp, rfl⟩
  | cons p ps ih =>
    intro w h
    obtain ⟨h1, h2, h3⟩ := ih (putPixel q w p) (putPixel_wf h q p)
    refine ⟨h1, ?_, by simpa using h3⟩
    rw [List.foldl_cons, h2, putPixel_cur, List.length_cons, Nat.succ_mul]; omega

theorem serializeWriter_wf (c : Config) (img : Image) : (serializeWriter c img).Wf :=
  (foldl_putPixel img.q img.colors _ (putHeader_wf Writer.fresh_wf c img)).1

/-- In a well-formed Image the pixels that the codec and the views visit are all of `IMG.pix` (10_state R27). -/
theorem Image.Wf.colors_eq {img : Image} (h : img.Wf) : img.colors = img.pix := by
  rw [Image.colors, ← h.2.2.2, List.take_length]

/-- The writer's cursor after the serialize sequence (43 R173). -/
theorem serializeWriter_cur (c : Config) {img : Image} (h : img.Wf) :
    (serializeWriter c img).cur = headerBits c + img.pixelDataBits := by
  rw [serializeWriter, (foldl_putPixel img.q img.colors _ (putHeader_wf Writer.fresh_wf c img)).2.1, h.colors_eq,
    h.2.2.2]
  simp [Writer.fresh, pixelCount, Image.pixelDataBits, Descriptor.pixelBits]

/-! ## The reader -/

theorem Reader.bindTo_wf (bytes : List Byte) : (Reader.bindTo bytes).Wf := Nat.zero_le _

theorem Reader.advance_wf {r : Reader} {n : Nat} (h : r.short n = false) : (r.advance n).Wf := by
  simpa [Reader.short, Reader.advance, Reader.Wf] using h

/-- A stretch of the deserialize sequence moves the reader's cursor only, never backwards, and never past the end. -/
def ParseKeeps {α : Type} (p : Parse α) : Prop := ∀ r : Reader, r.Wf →
  (p r).1.Wf ∧ (p r).1.buf = r.buf ∧ (p r).1.bound = r.bound ∧ r.cur ≤ (p r).1.cur

theorem parsePure_keeps {α : Type} (a : α) : ParseKeeps (parsePure a) := fun _ h => ⟨h, rfl, rfl, Nat.le_refl _⟩

theorem parseGuard_keeps (holds : Bool) (f : Failure) : ParseKeeps (parseGuard holds f) := by
  intro r h
  cases holds <;> exact ⟨h, rfl, rfl, Nat.le_refl _⟩

theorem parseField_keeps (n : Nat) : ParseKeeps (parseField n) := by
  intro r h
  unfold parseField
  split
  · exact ⟨h, rfl, rfl, Nat.le_refl _⟩
  · rename_i hs
    exact ⟨Reader.advance_wf (by simpa using hs), rfl, rfl, Nat.le_add_right _ _⟩

theorem parseThen_keeps {α β : Type} {p : Parse α} {f : α → Parse β} (hp : ParseKeeps p)
    (hf : ∀ a, ParseKeeps (f a)) : ParseKeeps (parseThen p f) := by
  intro r h
  obtain ⟨h1, h2, h3, h4⟩ := hp r h
  unfold parseThen
  split
  · rename_i r' a heq
    rw [heq] at h1 h2 h3 h4
    obtain ⟨g1, g2, g3, g4⟩ := hf a r' h1
    exact ⟨g1, g2.trans h2, g3.trans h3, Nat.le_trans h4 g4⟩
  · rename_i heq
    rw [heq] at h1 h2 h3 h4
    exact ⟨h1, h2, h3, h4⟩

theorem parseChannel_keeps (c : Config) (bits : Nat) : ParseKeeps (parseChannel c bits) := by
  unfold parseChannel
  split
  · exact parsePure_keeps _
  · exact parseThen_keeps (parseField_keeps _) fun _ => parsePure_keeps _

theorem parsePixel_keeps (c : Config) (q : Descriptor) : ParseKeeps (parsePixel c q) :=
  parseThen_keeps (parseChannel_keeps c _) fun _ => parseThen_keeps (parseChannel_keeps c _) fun _ =>
    parseThen_keeps (parseChannel_keeps c _) fun _ => parsePure_keeps _

theorem parsePixels_keeps (c : Config) (q : Descriptor) : ∀ n, ParseKeeps (parsePixels c q n)
  | 0 => parsePure_keeps _
  | n + 1 => parseThen_keeps (parsePixel_keeps c q) fun _ => parseThen_keeps (parsePixels_keeps c q n) fun _ =>
      parsePure_keeps _

theorem parseHeaderPad_keeps (c : Config) : ParseKeeps (parseHeaderPad c) := by
  unfold parseHeaderPad
  split
  · exact parsePure_keeps _
  · exact parseThen_keeps (parseField_keeps _) fun _ => parsePure_keeps _

theorem parseImage_keeps (c : Config) : ParseKeeps (parseImage c) := by
  unfold parseImage parseMagic parseDimensions parseDescriptor
  repeat' first
    | exact parsePixels_keeps c _ _
    | exact parseHeaderPad_keeps c
    | exact parseField_keeps _
    | exact parsePure_keeps _
    | exact parseGuard_keeps _ _
    | refine parseThen_keeps ?_ ?_
    | intro _

/-- `FRM.DES` leaves the reader bound to `IN`, its cursor within the buffer (43 R176). -/
theorem deserialize_reader (c : Config) (bytes : List Byte) :
    (deserialize c bytes).1.Wf ∧ (deserialize c bytes).1.buf = bytes ∧ (deserialize c bytes).1.bound = true := by
  obtain ⟨h1, h2, h3, _⟩ := parseImage_keeps c (Reader.bindTo bytes) (Reader.bindTo_wf bytes)
  exact ⟨h1, h2, h3⟩

/-! ## Successful stretches -/

/-- A sequence of two stretches succeeds exactly when both do. -/
theorem parseThen_eq_ok {α β : Type} {p : Parse α} {f : α → Parse β} {r r' : Reader} {b : β} :
    parseThen p f r = (r', .ok b) ↔ ∃ m a, p r = (m, .ok a) ∧ f a m = (r', .ok b) := by
  unfold parseThen
  rcases p r with ⟨m, a | a⟩
  · simp
  · constructor
    · exact fun h => ⟨m, a, rfl, h⟩
    · rintro ⟨m', a', h, h'⟩
      cases h
      exact h'

/-- A sequence of two stretches fails where its first does, or else where its second does. -/
theorem parseThen_eq_error {α β : Type} {p : Parse α} {f : α → Parse β} {r r' : Reader} {e : Failure} :
    parseThen p f r = (r', .error e) ↔
      p r = (r', .error e) ∨ ∃ m a, p r = (m, .ok a) ∧ f a m = (r', .error e) := by
  unfold parseThen
  rcases p r with ⟨m, a | a⟩
  · simp
  · simp only [Prod.mk.injEq, reduceCtorEq, and_false, false_or]
    constructor
    · exact fun h => ⟨m, a, ⟨rfl, rfl⟩, h⟩
    · rintro ⟨m', a', ⟨h1, h2⟩, h'⟩
      cases h1; cases h2
      exact h'

theorem parseGuard_eq_ok {holds : Bool} {f : Failure} {r r' : Reader} {u : Unit} :
    parseGuard holds f r = (r', .ok u) ↔ holds = true ∧ r' = r := by
  cases holds <;> simp [parseGuard, eq_comm]

theorem parseGuard_eq_error {holds : Bool} {f e : Failure} {r r' : Reader} :
    parseGuard holds f r = (r', .error e) ↔ holds = false ∧ r' = r ∧ e = f := by
  cases holds <;> simp [parseGuard, eq_comm]

theorem parsePure_eq {α : Type} {a b : α} {r r' : Reader} :
    parsePure a r = (r', .ok b) ↔ r' = r ∧ b = a := by
  simp [parsePure, eq_comm]

theorem parsePure_ne_error {α : Type} {a : α} {r r' : Reader} {e : Failure} : parsePure a r ≠ (r', .error e) := by
  simp [parsePure]

theorem parseField_eq_ok {n : Nat} {r r' : Reader} {v : U64} :
    parseField n r = (r', .ok v) ↔ r.cur + n ≤ bitlen r.buf ∧ r' = r.advance n ∧ v = r.field n := by
  unfold parseField Reader.short
  by_cases h : bitlen r.buf < r.cur + n
  · simp [h]
  · simp [h, eq_comm]; omega

theorem parseField_eq_error {n : Nat} {r r' : Reader} {e : Failure} :
    parseField n r = (r', .error e) ↔ bitlen r.buf < r.cur + n ∧ r' = r ∧ e = .truncatedData := by
  unfold parseField Reader.short
  by_cases h : bitlen r.buf < r.cur + n
  · simp [h, eq_comm]
  · simp [h]

theorem parsePixels_length (c : Config) (q : Descriptor) : ∀ (n : Nat) (r r' : Reader) (ps : List Rgb),
    parsePixels c q n r = (r', .ok ps) → ps.length = n
  | 0, r, r', ps, h => by simp [(parsePure_eq.mp h).2]
  | n + 1, r, r', ps, h => by
    obtain ⟨_, _, _, h⟩ := parseThen_eq_ok.mp h
    obtain ⟨_, ps', h1, h⟩ := parseThen_eq_ok.mp h
    rw [(parsePure_eq.mp h).2, List.length_cons, parsePixels_length c q n _ _ _ h1]

/-- What `FRM.DES` stores is a fully validated Image (43 R174; 10_state R27). -/
theorem deserialize_image_wf {c : Config} {bytes : List Byte} {r : Reader} {img : Image}
    (h : deserialize c bytes = (r, .ok img)) : img.Wf := by
  obtain ⟨_, _, _, h⟩ := parseThen_eq_ok.mp h
  obtain ⟨_, wh, hd, h⟩ := parseThen_eq_ok.mp h
  obtain ⟨_, q, hq, h⟩ := parseThen_eq_ok.mp h
  obtain ⟨_, pix, hp, h⟩ := parseThen_eq_ok.mp h
  obtain ⟨_, rfl⟩ := parsePure_eq.mp h
  obtain ⟨_, w, _, hd⟩ := parseThen_eq_ok.mp hd
  obtain ⟨_, hh, _, hd⟩ := parseThen_eq_ok.mp hd
  obtain ⟨_, _, hg, hd⟩ := parseThen_eq_ok.mp hd
  obtain ⟨_, rfl⟩ := parsePure_eq.mp hd
  obtain ⟨_, _, _, hq⟩ := parseThen_eq_ok.mp hq
  obtain ⟨_, _, _, hq⟩ := parseThen_eq_ok.mp hq
  obtain ⟨_, _, _, hq⟩ := parseThen_eq_ok.mp hq
  obtain ⟨_, _, _, hq⟩ := parseThen_eq_ok.mp hq
  obtain ⟨_, _, hl, hq⟩ := parseThen_eq_ok.mp hq
  obtain ⟨_, rfl⟩ := parsePure_eq.mp hq
  obtain ⟨h1, h2⟩ := dimensionsLegal_eq_true.mp (parseGuard_eq_ok.mp hg).1
  exact ⟨h1, h2, (parseGuard_eq_ok.mp hl).1, parsePixels_length c _ _ _ _ _ hp⟩

/-! ## Reset -/

/-- The memory of the reset state has its form. -/
theorem reset_memory_wf : Memory.wf State.reset := by decide

end Sys2Proof.Machine
end

