-- ==== Sys2Proof/Laws/Codec.lean ====
section
/-! SUPPORT. The codec's stretches, each said once: what a parse of a stretch answers in terms of the bits of the buffer
(30_encoding R84; 43 R175), and which bits of the stream the writes of a stretch fix (30_encoding R85; 43 R171). -/

namespace Sys2Proof.Machine

/-! ## Fields of a buffer -/

theorem fieldAt_zero (buf : List Byte) (c : Nat) : fieldAt buf c 0 = 0 := rfl

theorem fieldAt_succ (buf : List Byte) (c n : Nat) :
    fieldAt buf c (n + 1) = 2 * fieldAt buf c n + (sbit buf (c + n)).toNat := by
  have key : (List.range n).map (fun i => (sbit buf (c + i)).toNat * 2 ^ (n + 1 - 1 - i)) =
      (List.range n).map (fun i => 2 * ((sbit buf (c + i)).toNat * 2 ^ (n - 1 - i))) := by
    apply List.map_congr_left
    intro i hi
    rw [List.mem_range] at hi
    rw [show n + 1 - 1 - i = (n - 1 - i) + 1 by omega, pow_succ]
    ring
  unfold fieldAt
  rw [List.range_succ, List.map_append, List.sum_append, key, List.sum_map_mul_left]
  simp

/-- The bits of a field (30_encoding R84). -/
theorem testBit_fieldAt (buf : List Byte) (c n : Nat) : ∀ j : Nat,
    (fieldAt buf c n).testBit j = (decide (j < n) && sbit buf (c + n - 1 - j)) := by
  induction n with
  | zero => intro j; simp [fieldAt_zero]
  | succ n ih =>
    intro j
    rw [fieldAt_succ]
    cases j with
    | zero => cases h : sbit buf (c + n) <;> simp [Nat.testBit_zero, h]
    | succ j =>
      have : (2 * fieldAt buf c n + (sbit buf (c + n)).toNat) / 2 = fieldAt buf c n := by
        cases sbit buf (c + n) <;> simp [Nat.mul_add_div]
      rw [Nat.testBit_succ, this, ih j]
      by_cases hj : j < n
      · simp only [hj, decide_true, Bool.true_and, show j + 1 < n + 1 by omega]
        congr 1; omega
      · simp [hj]

theorem fieldAt_lt (buf : List Byte) (c n : Nat) : fieldAt buf c n < 2 ^ n := by
  apply Nat.lt_pow_two_of_testBit
  intro j hj
  simp [testBit_fieldAt, Nat.not_lt.mpr hj]

/-- The field a reader is about to read is the field of its buffer at its cursor. -/
theorem Reader.field_toNat (r : Reader) {n : Nat} (hn : n ≤ 64) : (r.field n).toNat = fieldAt r.buf r.cur n := by
  apply Nat.eq_of_testBit_eq
  intro j
  rw [testBit_fieldAt]
  exact r.getLsbD_field hn

/-- A field depends on its own bits only. -/
theorem fieldAt_congr {buf buf' : List Byte} {c n : Nat} (h : ∀ k, c ≤ k → k < c + n → sbit buf k = sbit buf' k) :
    fieldAt buf c n = fieldAt buf' c n := by
  unfold fieldAt
  congr 1
  apply List.map_congr_left
  intro i hi
  rw [List.mem_range] at hi
  rw [h (c + i) (by omega) (by omega)]

/-- A field whose bits are those of a number that fits is that number. -/
theorem fieldAt_eq {buf : List Byte} {c n : Nat} {v : U64} (hv : v.toNat < 2 ^ n)
    (h : ∀ k, c ≤ k → k < c + n → sbit buf k = v.getLsbD (n - 1 - (k - c))) : fieldAt buf c n = v.toNat := by
  apply Nat.eq_of_testBit_eq
  intro j
  rw [testBit_fieldAt]
  by_cases hj : j < n
  · rw [h (c + n - 1 - j) (by omega) (by omega)]
    simp only [hj, decide_true, Bool.true_and, BitVec.getLsbD]
    congr 1; omega
  · simp only [hj, decide_false, Bool.false_and]
    symm
    exact Nat.testBit_lt_two_pow (Nat.lt_of_lt_of_le hv (Nat.pow_le_pow_right (by omega) (by omega)))

/-! ## Parsing the pixel body -/

/-- The channel of width `bits` whose index stands at stream bit `k` (43 R172, R175). -/
def channelAt (c : Config) (buf : List Byte) (k bits : Nat) : Byte :=
  dec c (BitVec.ofNat 8 (fieldAt buf k bits)) bits

/-- The pixel whose indices stand from stream bit `k` on (30_encoding R85; 43 R175). -/
def pixelFrom (c : Config) (q : Descriptor) (buf : List Byte) (k : Nat) : Rgb where
  r := channelAt c buf k q.r.toNat
  g := channelAt c buf (k + q.r.toNat) q.g.toNat
  b := channelAt c buf (k + q.r.toNat + q.g.toNat) q.b.toNat

@[simp] theorem Reader.advance_buf (r : Reader) (n : Nat) : (r.advance n).buf = r.buf := rfl

@[simp] theorem Reader.advance_cur (r : Reader) (n : Nat) : (r.advance n).cur = r.cur + n := rfl

@[simp] theorem Reader.advance_bound (r : Reader) (n : Nat) : (r.advance n).bound = r.bound := rfl

theorem Reader.advance_advance (r : Reader) (m n : Nat) : (r.advance m).advance n = r.advance (m + n) := by
  simp [Reader.advance, Nat.add_assoc]

theorem Reader.advance_zero (r : Reader) : r.advance 0 = r := rfl

/-- A parse from `r` that wants `n` bits: with enough of them it answers `a` and consumes all `n`; without, it fails
`TruncatedData` before it has consumed them. -/
def ParseReads {α : Type} (p : Parse α) (r : Reader) (n : Nat) (a : α) : Prop :=
  (r.cur + n ≤ bitlen r.buf → p r = (r.advance n, .ok a)) ∧
  (bitlen r.buf < r.cur + n → ∃ m, m < n ∧ p r = (r.advance m, .error .truncatedData))

theorem parsePure_reads {α : Type} (a : α) (r : Reader) (h : r.Wf) : ParseReads (parsePure a) r 0 a :=
  ⟨fun _ => rfl, fun h' => absurd h' (Nat.not_lt.mpr h)⟩

theorem parseField_reads (n : Nat) (hn : 0 < n) (r : Reader) : ParseReads (parseField n) r n (r.field n) := by
  constructor
  · intro h
    exact parseField_eq_ok.mpr ⟨h, rfl, rfl⟩
  · intro h
    exact ⟨0, hn, parseField_eq_error.mpr ⟨h, rfl, rfl⟩⟩

theorem parseThen_reads {α β : Type} {p : Parse α} {f : α → Parse β} {r : Reader} {m n : Nat} {a : α} {b : β}
    (hp : ParseReads p r m a) (hf : r.cur + m ≤ bitlen r.buf → ParseReads (f a) (r.advance m) n b) :
    ParseReads (parseThen p f) r (m + n) b := by
  constructor
  · intro h
    have hm : r.cur + m ≤ bitlen r.buf := by omega
    have h2 := (hf hm).1 (by simpa [Nat.add_assoc] using h)
    rw [Reader.advance_advance] at h2
    exact parseThen_eq_ok.mpr ⟨_, _, hp.1 hm, h2⟩
  · intro h
    by_cases hm : r.cur + m ≤ bitlen r.buf
    · obtain ⟨k, hk, h2⟩ := (hf hm).2 (by simpa [Nat.add_assoc] using h)
      rw [Reader.advance_advance] at h2
      exact ⟨m + k, by omega, parseThen_eq_error.mpr (.inr ⟨_, _, hp.1 hm, h2⟩)⟩
    · obtain ⟨k, hk, h2⟩ := hp.2 (by omega)
      exact ⟨k, by omega, parseThen_eq_error.mpr (.inl h2)⟩

theorem parseChannel_reads (c : Config) (bits : Nat) (hb : bits ≤ 64) (r : Reader) (h : r.Wf) :
    ParseReads (parseChannel c bits) r bits (channelAt c r.buf r.cur bits) := by
  unfold parseChannel
  split
  · rename_i h0
    subst h0
    exact parsePure_reads _ r h
  · rename_i h0
    have key : channelAt c r.buf r.cur bits = dec c ((r.field bits).setWidth 8) bits := by
      rw [channelAt, ← r.field_toNat hb]
      rfl
    rw [key]
    exact parseThen_reads (n := 0) (parseField_reads bits (by omega) r) fun hm => parsePure_reads _ _ hm

theorem Nibble.toNat_lt (x : Nibble) : x.toNat < 16 := x.isLt

theorem parsePixel_reads (c : Config) (q : Descriptor) (r : Reader) (h : r.Wf) :
    ParseReads (parsePixel c q) r q.pixelBits (pixelFrom c q r.buf r.cur) := by
  have h1 := q.r.isLt
  have h2 := q.g.isLt
  have h3 := q.b.isLt
  have key : q.pixelBits = q.r.toNat + (q.g.toNat + (q.b.toNat + 0)) := by simp [Descriptor.pixelBits]; omega
  rw [key]
  refine parseThen_reads (parseChannel_reads c _ (by omega) r h) fun hr => ?_
  refine parseThen_reads (parseChannel_reads c _ (by omega) _ hr) fun hg => ?_
  exact parseThen_reads (parseChannel_reads c _ (by omega) _ hg) fun hb => parsePure_reads _ _ hb

/-- The whole pixel body (43 R175): `n` pixels of `q.pixelBits` bits each. -/
theorem parsePixels_reads (c : Config) (q : Descriptor) : ∀ (n : Nat) (r : Reader), r.Wf →
    ParseReads (parsePixels c q n) r (n * q.pixelBits)
      ((List.range n).map fun i => pixelFrom c q r.buf (r.cur + i * q.pixelBits))
  | 0, r, h => by
    rw [Nat.zero_mul]
    exact parsePure_reads ([] : List Rgb) r h
  | n + 1, r, h => by
    have key : (n + 1) * q.pixelBits = q.pixelBits + (n * q.pixelBits + 0) := by rw [Nat.succ_mul]; omega
    have body : (List.range (n + 1)).map (fun i => pixelFrom c q r.buf (r.cur + i * q.pixelBits)) =
        pixelFrom c q r.buf r.cur :: (List.range n).map fun i =>
          pixelFrom c q (r.advance q.pixelBits).buf ((r.advance q.pixelBits).cur + i * q.pixelBits) := by
      rw [List.range_succ_eq_map, List.map_cons, List.map_map]
      simp only [Nat.zero_mul, Nat.add_zero, List.cons.injEq, true_and]
      apply List.map_congr_left
      intro i _
      simp only [Function.comp, Reader.advance_buf, Reader.advance_cur]
      congr 1
      rw [Nat.succ_mul]; omega
    rw [key, body]
    refine parseThen_reads (parsePixel_reads c q r h) fun hr => ?_
    exact parseThen_reads (parsePixels_reads c q n _ hr) fun hb => parsePure_reads _ _ hb

/-! ## A sequence as a chain of tests -/

theorem parseThen_assoc {α β γ : Type} (p : Parse α) (f : α → Parse β) (g : β → Parse γ) (r : Reader) :
    parseThen (parseThen p f) g r = parseThen p (fun a => parseThen (f a) g) r := by
  unfold parseThen
  rcases p r with ⟨r', _ | _⟩ <;> rfl

theorem parseThen_pure {α β : Type} (a : α) (f : α → Parse β) (r : Reader) : parseThen (parsePure a) f r = f a r := rfl

/-- A field and what follows it: the truncation test, then the rest after the field (43 R175). -/
theorem parseThen_field {β : Type} (n : Nat) (f : U64 → Parse β) (r : Reader) :
    parseThen (parseField n) f r =
      if bitlen r.buf < r.cur + n then (r, .error .truncatedData) else f (r.field n) (r.advance n) := by
  unfold parseThen parseField Reader.short
  by_cases h : bitlen r.buf < r.cur + n <;> simp [h]

/-- A check and what follows it. -/
theorem parseThen_guard {β : Type} (holds : Bool) (e : Failure) (f : Unit → Parse β) (r : Reader) :
    parseThen (parseGuard holds e) f r = if holds then f () r else (r, .error e) := by
  cases holds <;> rfl

/-! ## The bits that serializing fixes -/

/-- The buffer agrees with everything the writer has written. -/
def Writer.AgreesWith (w : Writer) (buf : List Byte) : Prop := ∀ k, k < w.cur → sbit buf k = sbit w.buf k

/-- A buffer that agrees with a writer after a field agrees with it before, and holds the field (40 R112). -/
theorem Writer.AgreesWith.of_put {w : Writer} {buf : List Byte} {n : Nat} {v : U64} (h : w.Wf)
    (ha : (w.put n v).AgreesWith buf) (hv : v.toNat < 2 ^ n) :
    w.AgreesWith buf ∧ fieldAt buf w.cur n = v.toNat := by
  have hb := (Writer.put_spec h n v).2.2.2
  constructor
  · intro k hk
    rw [ha k (by simp; omega), hb, if_neg (by omega)]
  · apply fieldAt_eq hv
    intro k h1 h2
    rw [ha k (by simp; omega), hb, if_pos ⟨h1, h2⟩]

/-- The index of a channel value fits its width (42 R151). -/
theorem enc_lt (value : Byte) (bits : Nat) (hb : bits ≤ 8) : (enc value bits).toNat < 2 ^ bits := by
  unfold enc
  split
  · rename_i h; subst h; decide
  · rw [BitVec.toNat_ushiftRight, Nat.shiftRight_eq_div_pow, Nat.div_lt_iff_lt_mul (Nat.two_pow_pos _), ← pow_add,
      show bits + (8 - bits) = 8 by omega]
    exact value.isLt

theorem toNat_setWidth_64_8 (x : Byte) : (x.setWidth 64 : U64).toNat = x.toNat := by
  have := x.isLt
  rw [BitVec.toNat_setWidth, Nat.mod_eq_of_lt (by omega)]

theorem Writer.AgreesWith.of_putChannel {w : Writer} {buf : List Byte} {bits : Nat} {value : Byte} (h : w.Wf)
    (hb : bits ≤ 8) (ha : (putChannel bits value w).AgreesWith buf) :
    w.AgreesWith buf ∧ fieldAt buf w.cur bits = (enc value bits).toNat := by
  unfold putChannel at ha
  split at ha
  · rename_i h0
    subst h0
    exact ⟨ha, rfl⟩
  · obtain ⟨h1, h2⟩ := Writer.AgreesWith.of_put h ha (by rw [toNat_setWidth_64_8]; exact enc_lt value bits hb)
    exact ⟨h1, by rw [h2, toNat_setWidth_64_8]⟩

/-- The three indices of a pixel stand one after another from the writer's cursor on (30_encoding R85). -/
theorem Writer.AgreesWith.of_putPixel {w : Writer} {buf : List Byte} {q : Descriptor} {p : Rgb} (h : w.Wf)
    (hq : q.legal = true) (ha : (putPixel q w p).AgreesWith buf) :
    w.AgreesWith buf ∧ fieldAt buf w.cur q.r.toNat = (enc p.r q.r.toNat).toNat ∧
      fieldAt buf (w.cur + q.r.toNat) q.g.toNat = (enc p.g q.g.toNat).toNat ∧
      fieldAt buf (w.cur + q.r.toNat + q.g.toNat) q.b.toNat = (enc p.b q.b.toNat).toNat := by
  obtain ⟨hr, hg, hb⟩ := Descriptor.legal_eq_true.mp hq
  obtain ⟨h1, f3⟩ := Writer.AgreesWith.of_putChannel (putChannel_wf (putChannel_wf h _ _) _ _) hb ha
  obtain ⟨h2, f2⟩ := Writer.AgreesWith.of_putChannel (putChannel_wf h _ _) hg h1
  obtain ⟨h3, f1⟩ := Writer.AgreesWith.of_putChannel h hr h2
  simp only [putChannel_cur] at f2 f3
  exact ⟨h3, f1, f2, f3⟩

/-- Every pixel of a written list stands where 30_encoding R85 says, counted from the writer's cursor. -/
theorem Writer.AgreesWith.of_pixels {q : Descriptor} (hq : q.legal = true) {buf : List Byte} : ∀ (ps : List Rgb) (w : Writer),
    w.Wf → (ps.foldl (putPixel q) w).AgreesWith buf →
    w.AgreesWith buf ∧ ∀ (i : Nat) (p : Rgb), ps[i]? = some p →
      fieldAt buf (w.cur + i * q.pixelBits) q.r.toNat = (enc p.r q.r.toNat).toNat ∧
      fieldAt buf (w.cur + i * q.pixelBits + q.r.toNat) q.g.toNat = (enc p.g q.g.toNat).toNat ∧
      fieldAt buf (w.cur + i * q.pixelBits + q.r.toNat + q.g.toNat) q.b.toNat = (enc p.b q.b.toNat).toNat
  | [], w, _, ha => ⟨ha, fun i p h => by simp at h⟩
  | p0 :: ps, w, h, ha => by
    obtain ⟨h1, hps⟩ := Writer.AgreesWith.of_pixels hq ps (putPixel q w p0) (putPixel_wf h q p0) ha
    obtain ⟨h2, hp⟩ := Writer.AgreesWith.of_putPixel h hq h1
    refine ⟨h2, fun i p hi => ?_⟩
    cases i with
    | zero =>
      simp only [List.getElem?_cons_zero, Option.some.injEq] at hi
      subst hi
      simpa using hp
    | succ i =>
      have := hps i p (by simpa using hi)
      rw [putPixel_cur] at this
      rwa [show w.cur + (i + 1) * q.pixelBits = w.cur + q.pixelBits + i * q.pixelBits by rw [Nat.succ_mul]; omega]

/-- The six header fields stand at their offsets (30_encoding R80). -/
theorem Writer.AgreesWith.of_putHeader {c : Config} {img : Image} {buf : List Byte}
    (ha : (putHeader c img Writer.fresh).AgreesWith buf) :
    fieldAt buf 0 64 = c.magic.toNat ∧ fieldAt buf 64 16 = img.width.toNat ∧ fieldAt buf 80 16 = img.height.toNat ∧
      fieldAt buf 96 4 = img.q.r.toNat ∧ fieldAt buf 100 4 = img.q.g.toNat ∧ fieldAt buf 104 4 = img.q.b.toNat := by
  have hd : ∀ d : Dim, (d.setWidth 64 : U64).toNat = d.toNat := fun d => by
    have := d.isLt
    rw [BitVec.toNat_setWidth, Nat.mod_eq_of_lt (by omega)]
  have hn : ∀ d : Nibble, (d.setWidth 64 : U64).toNat = d.toNat := fun d => by
    have := d.isLt
    rw [BitVec.toNat_setWidth, Nat.mod_eq_of_lt (by omega)]
  have w0 := Writer.fresh_wf
  have w1 := Writer.put_wf w0 64 c.magic
  have w2 := Writer.put_wf w1 16 (img.width.setWidth 64)
  have w3 := Writer.put_wf w2 16 (img.height.setWidth 64)
  have w4 := Writer.put_wf w3 4 (img.q.r.setWidth 64)
  have w5 := Writer.put_wf w4 4 (img.q.g.setWidth 64)
  have w6 := Writer.put_wf w5 4 (img.q.b.setWidth 64)
  have h6 : ((((((Writer.fresh.put 64 c.magic).put 16 (img.width.setWidth 64)).put 16 (img.height.setWidth 64)).put 4
      (img.q.r.setWidth 64)).put 4 (img.q.g.setWidth 64)).put 4 (img.q.b.setWidth 64)).AgreesWith buf := by
    unfold putHeader putHeaderPad at ha
    split at ha
    · exact ha
    · exact (Writer.AgreesWith.of_put w6 ha (by decide)).1
  obtain ⟨h5, f6⟩ := Writer.AgreesWith.of_put w5 h6 (by rw [hn]; exact img.q.b.isLt)
  obtain ⟨h4, f5⟩ := Writer.AgreesWith.of_put w4 h5 (by rw [hn]; exact img.q.g.isLt)
  obtain ⟨h3, f4⟩ := Writer.AgreesWith.of_put w3 h4 (by rw [hn]; exact img.q.r.isLt)
  obtain ⟨h2, f3⟩ := Writer.AgreesWith.of_put w2 h3 (by rw [hd]; exact img.height.isLt)
  obtain ⟨h1, f2⟩ := Writer.AgreesWith.of_put w1 h2 (by rw [hd]; exact img.width.isLt)
  obtain ⟨_, f1⟩ := Writer.AgreesWith.of_put w0 h1 c.magic.isLt
  rw [hn] at f4 f5 f6
  rw [hd] at f2 f3
  exact ⟨f1, f2, f3, f4, f5, f6⟩

end Sys2Proof.Machine
end

