-- ==== Sys2Proof/Laws/Decode.lean ====
section
/-! SUPPORT. The fields of a command word, and the rows of the opcode table, field by field (30_encoding R90, R94). -/

namespace Sys2Proof

@[simp] theorem CmdWord.op_mk (op a : Byte) (d : U64) : (CmdWord.mk op a d).op = op := by
  apply BitVec.eq_of_getLsbD_eq
  intro i hi
  simp only [CmdWord.op, CmdWord.mk, BitVec.getLsbD_extractLsb', BitVec.getLsbD_append]
  simp [hi, show ¬ 72 + i < 64 by omega, show ¬ (72 + i - 64 < 8) by omega, show 72 + i - 64 - 8 = i by omega]

@[simp] theorem CmdWord.a_mk (op a : Byte) (d : U64) : (CmdWord.mk op a d).a = a := by
  apply BitVec.eq_of_getLsbD_eq
  intro i hi
  simp only [CmdWord.a, CmdWord.mk, BitVec.getLsbD_extractLsb', BitVec.getLsbD_append]
  simp [hi]

@[simp] theorem CmdWord.d_mk (op a : Byte) (d : U64) : (CmdWord.mk op a d).d = d := by
  apply BitVec.eq_of_getLsbD_eq
  intro i hi
  simp only [CmdWord.d, CmdWord.mk, BitVec.getLsbD_extractLsb', BitVec.getLsbD_append]
  simp [hi]

/-- A command word is its three fields (30_encoding R90). -/
theorem CmdWord.mk_fields (w : CmdWord) : CmdWord.mk w.op w.a w.d = w := by
  apply BitVec.eq_of_getLsbD_eq
  intro i hi
  simp only [CmdWord.op, CmdWord.a, CmdWord.d, CmdWord.mk, BitVec.getLsbD_extractLsb', BitVec.getLsbD_append]
  by_cases h1 : i < 64
  · simp [h1]
  · by_cases h2 : i - 64 < 8
    · simp [h1, h2, show 64 + (i - 64) = i by omega]
    · simp [h1, h2, show i - 64 - 8 < 8 by omega, show 72 + (i - 64 - 8) = i by omega]

/-- Masking a command word masks its fields. -/
theorem CmdWord.mk_and_mk (op a op' a' : Byte) (d d' : U64) :
    CmdWord.mk op a d &&& CmdWord.mk op' a' d' = CmdWord.mk (op &&& op') (a &&& a') (d &&& d') := by
  apply BitVec.eq_of_getLsbD_eq
  intro i hi
  simp only [CmdWord.mk, BitVec.getLsbD_and, BitVec.getLsbD_append]
  split
  · rfl
  · split <;> rfl

/-- Two command words are equal exactly when their fields are. -/
theorem CmdWord.mk_inj {op a op' a' : Byte} {d d' : U64} :
    CmdWord.mk op a d = CmdWord.mk op' a' d' ↔ op = op' ∧ a = a' ∧ d = d' := by
  constructor
  · intro h
    exact ⟨by simpa using congrArg CmdWord.op h, by simpa using congrArg CmdWord.a h, by simpa using congrArg CmdWord.d h⟩
  · rintro ⟨rfl, rfl, rfl⟩
    rfl

/-- The decoder on a word given by its fields. -/
theorem decode_mk (op a : Byte) (d : U64) : decode (CmdWord.mk op a d) = decodeFields op a d := by
  simp [decode]

/-- A row given by its fields admits a word given by its fields when it admits each field. -/
theorem OpRow.admits_mk {op a mo ma po pa : Byte} {d md pd : U64} {row : OpRow}
    (hm : row.mask = CmdWord.mk mo ma md) (hp : row.pattern = CmdWord.mk po pa pd) :
    row.admits (CmdWord.mk op a d) = true ↔ op &&& mo = po ∧ a &&& ma = pa ∧ d &&& md = pd := by
  rw [OpRow.admits, hm, hp, CmdWord.mk_and_mk, beq_iff_eq, CmdWord.mk_inj]

end Sys2Proof
end

