-- ==== Sys2Proof/Laws/Exec.lean ====
section
/-! SUPPORT. Everything a command can do, said once: the standing abort, else its first contract violation, else its own
effect (60_exceptions R229). -/

namespace Sys2Proof.Machine

/-- What a command does once its contract checks have passed: its effect, or one of its failures. -/
def effect (s : State) : Instr → State
  | .bswInit => { s with w := Writer.fresh }.finish .ok
  | .bswWrite w v => { s with w := s.w.put w.toNat v }.finish .ok
  | .bswFin => { s with w := s.w.finalize }.finishBytes s.w.buf
  | .bswPos => s.finishValue (writerPos s.w.cur)
  | .bsrBind => { s with r := Reader.bindTo s.inBuf }.finish .ok
  | .bsrRead w =>
    if bitlen s.r.buf < s.r.cur + w.toNat then s.failWith .truncatedData
    else { s with r := s.r.advance w.toNat }.finishValue (s.r.field w.toNat)
  | .bsrPos => s.finishValue (readerPos s.r.cur)
  | .qNew r g b =>
    if channelWidthsLegal r g b then { s with q := descriptorOf r g b, qValid := true }.finish .ok
    else s.failWith .invalidQuantization
  | .qEnc bits value => s.finishValue ((enc value bits.toNat).setWidth 64)
  | .qDec bits index => s.finishValue ((dec config index bits.toNat).setWidth 64)
  | .frmSer => s.serializeImage
  | .frmDes => s.deserializeInput
  | .imgNew width height r g b =>
    if dimensionsLegal width height then
      if channelWidthsLegal r g b then
        if s.pixin.length = pixelCount width height then
          { s with
            img := { width := width, height := height, q := descriptorOf r g b, pix := s.pixin }
            imgValid := true }.finish .ok
        else s.failWith .pixelCountMismatch
      else s.failWith .invalidQuantization
    else s.failWith .invalidDimensions
  | .imgColors => s.finish (.okColors s.img.colors)
  | .imgPixels => s.finish (.okPixels s.img.pixels)
  | .imgBytes => s.serializeImage

/-- A contract check whose condition and first violation agree. -/
theorem State.require_eq {s : State} {holds : Bool} {c : AbortCause} {body : State → State} {bad : Prop} [Decidable bad]
    (h : holds = true ↔ ¬ bad) : s.require holds c body = if bad then s.takeAbort c else body s := by
  by_cases hb : bad
  · have : holds = false := by
      cases holds
      · rfl
      · exact absurd hb (h.mp rfl)
    simp [this, hb]
  · simp [h.mpr hb, hb]

/-- Everything a command does when no abort stands. -/
theorem exec_clear (i : Instr) {s : State} (h : s.abortSet = false) : exec i s = .next
    (match violation s i with
      | some c => s.takeAbort c
      | none => effect s i) := by
  have hw : ∀ w : Byte, widthInRange w = true ↔ ¬ (w.toNat < 1 ∨ 64 < w.toNat) := fun w => by
    rw [widthInRange_eq_true]; omega
  have hopen : (s.w.mode == WriterMode.opened) = true ↔ ¬ s.w.mode = .consumed := by
    cases s.w.mode <;> simp
  have hbound : s.r.bound = true ↔ ¬ s.r.bound = false := by simp
  have himg : s.imgValid = true ↔ ¬ s.imgValid = false := by simp
  have hbits : ∀ b : Byte, bitsInRange b = true ↔ ¬ 8 < b.toNat := fun b => by rw [bitsInRange_eq_true]; omega
  cases i with
  | bswInit => exact congrArg _ (State.unlessAborted_clear h)
  | bsrBind => exact congrArg _ (State.unlessAborted_clear h)
  | frmDes => exact congrArg _ (State.unlessAborted_clear h)
  | qNew r g b => exact congrArg _ (State.unlessAborted_clear h)
  | imgNew width height r g b =>
    refine congrArg _ ((State.unlessAborted_clear h).trans ?_)
    simp only [State.check, violation, effect, beq_iff_eq]
  | bswWrite w v =>
    refine congrArg _ ((State.unlessAborted_clear h).trans ?_)
    rw [State.ifOpen, State.require_eq hopen, State.require_eq (hw w),
      State.require_eq (bad := 2 ^ w.toNat ≤ v.toNat) (by rw [valueFits_eq_true]; omega)]
    simp only [violation]
    split_ifs <;> rfl
  | bswFin =>
    refine congrArg _ ((State.unlessAborted_clear h).trans ?_)
    rw [State.ifOpen, State.require_eq hopen]
    simp only [violation]
    split_ifs <;> rfl
  | bswPos =>
    refine congrArg _ ((State.unlessAborted_clear h).trans ?_)
    rw [State.ifOpen, State.require_eq hopen]
    simp only [violation]
    split_ifs <;> rfl
  | bsrRead w =>
    refine congrArg _ ((State.unlessAborted_clear h).trans ?_)
    rw [State.ifBound, State.require_eq hbound, State.require_eq (hw w)]
    simp only [violation, State.check, effect, Reader.short]
    split_ifs <;> simp_all
  | bsrPos =>
    refine congrArg _ ((State.unlessAborted_clear h).trans ?_)
    rw [State.ifBound, State.require_eq hbound]
    simp only [violation]
    split_ifs <;> rfl
  | qEnc bits value =>
    refine congrArg _ ((State.unlessAborted_clear h).trans ?_)
    rw [State.require_eq (hbits bits)]
    simp only [violation]
    split_ifs <;> rfl
  | qDec bits index =>
    refine congrArg _ ((State.unlessAborted_clear h).trans ?_)
    rw [State.require_eq (hbits bits), State.require_eq (bad := 2 ^ bits.toNat ≤ index.toNat)
      (by rw [indexFits_eq_true]; omega)]
    simp only [violation]
    split_ifs <;> rfl
  | frmSer =>
    refine congrArg _ ((State.unlessAborted_clear h).trans ?_)
    rw [State.ifImage, State.require_eq himg]
    simp only [violation]
    split_ifs <;> rfl
  | imgColors =>
    refine congrArg _ ((State.unlessAborted_clear h).trans ?_)
    rw [State.ifImage, State.require_eq himg]
    simp only [violation]
    split_ifs <;> rfl
  | imgPixels =>
    refine congrArg _ ((State.unlessAborted_clear h).trans ?_)
    rw [State.ifImage, State.require_eq himg]
    simp only [violation]
    split_ifs <;> rfl
  | imgBytes =>
    refine congrArg _ ((State.unlessAborted_clear h).trans ?_)
    rw [State.ifImage, State.require_eq himg]
    simp only [violation]
    split_ifs <;> rfl

/-- Everything a command does while an abort stands (10_state R34). -/
theorem exec_aborted (i : Instr) {s : State} (h : s.abortSet = true) :
    exec i s = .next (s.answer (.abort s.abortCause)) := by
  cases i <;> exact congrArg _ (State.unlessAborted_set h)

/-- Everything a command can do. -/
theorem exec_cases {i : Instr} {s t : State} (h : exec i s = .next t) :
    (s.abortSet = true ∧ t = s.answer (.abort s.abortCause)) ∨
    (s.abortSet = false ∧ ∃ c, violation s i = some c ∧ t = s.takeAbort c) ∨
    (s.abortSet = false ∧ violation s i = none ∧ t = effect s i) := by
  cases ha : s.abortSet with
  | true =>
    rw [exec_aborted i ha] at h
    exact .inl ⟨rfl, (Host.Outcome.next.inj h).symm⟩
  | false =>
    rw [exec_clear i ha] at h
    cases hv : violation s i with
    | some c => exact .inr (.inl ⟨rfl, c, rfl, by rw [hv] at h; exact (Host.Outcome.next.inj h).symm⟩)
    | none => exact .inr (.inr ⟨rfl, rfl, by rw [hv] at h; exact (Host.Outcome.next.inj h).symm⟩)

/-- A command whose contract holds has its effect. -/
theorem exec_of_no_violation {i : Instr} {s : State} (ha : s.abortSet = false) (hv : violation s i = none) :
    exec i s = .next (effect s i) := by
  rw [exec_clear i ha, hv]

/-- A command whose contract is violated aborts. -/
theorem exec_of_violation {i : Instr} {s : State} {c : AbortCause} (ha : s.abortSet = false)
    (hv : violation s i = some c) : exec i s = .next (s.takeAbort c) := by
  rw [exec_clear i ha, hv]

end Sys2Proof.Machine
end

