-- ==== Sys2Proof/Laws/PerInstr.lean ====
section
/-! SUPPORT. For every constructor: the encoder's word agrees with the row of spec/opcode_table.json on every bit the row
fixes (30_encoding R94), so that the opcode is the row's and every must-be-zero field is zero. -/

namespace Sys2Proof.Laws.EncodedInItsRow

/-- The word of `i` is admitted by the row of `i`. -/
def Statement (i : Instr) : Prop := i.row.admits (encode i) = true

theorem bswInit : Statement .bswInit := by unfold Statement; decide

theorem bswWrite (w : Byte) (v : U64) : Statement (.bswWrite w v) :=
  (OpRow.admits_mk (mo := 0xFF) (ma := 0) (md := 0) (po := 0x11) (pa := 0) (pd := 0) rfl rfl).mpr
    ⟨show (0x11 : Byte) &&& 0xFF = 0x11 by decide, by simp [Instr.argA], by simp [Instr.argD]⟩

theorem bswFin : Statement .bswFin := by unfold Statement; decide

theorem bswPos : Statement .bswPos := by unfold Statement; decide

theorem bsrBind : Statement .bsrBind := by unfold Statement; decide

theorem bsrRead (w : Byte) : Statement (.bsrRead w) :=
  (OpRow.admits_mk (mo := 0xFF) (ma := 0) (md := BitVec.allOnes 64) (po := 0x21) (pa := 0) (pd := 0) rfl rfl).mpr ⟨show (0x21 : Byte) &&& 0xFF = 0x21 by decide, by simp [Instr.argA], by simp [Instr.argD]⟩

theorem bsrPos : Statement .bsrPos := by unfold Statement; decide

theorem qNew (r g b : Byte) : Statement (.qNew r g b) :=
  (OpRow.admits_mk (mo := 0xFF) (ma := 0xFF) (md := (BitVec.allOnes 40 ++ (0 : BitVec 24) : BitVec 64)) (po := 0x30)
    (pa := 0) (pd := 0) rfl rfl).mpr ⟨show (0x30 : Byte) &&& 0xFF = 0x30 by decide, show (0 : Byte) &&& 0xFF = 0 by decide, by
      apply BitVec.eq_of_getLsbD_eq
      intro i hi
      simp only [Instr.argD, BitVec.getLsbD_and, BitVec.getLsbD_append, BitVec.getLsbD_allOnes, BitVec.getLsbD_zero]
      split_ifs <;> simp <;> omega⟩

theorem qEnc (bits value : Byte) : Statement (.qEnc bits value) :=
  (OpRow.admits_mk (mo := 0xFF) (ma := 0) (md := (BitVec.allOnes 56 ++ (0 : BitVec 8) : BitVec 64)) (po := 0x31)
    (pa := 0) (pd := 0) rfl rfl).mpr ⟨show (0x31 : Byte) &&& 0xFF = 0x31 by decide, by simp [Instr.argA], by
      apply BitVec.eq_of_getLsbD_eq
      intro i hi
      simp only [Instr.argD, BitVec.getLsbD_and, BitVec.getLsbD_append, BitVec.getLsbD_allOnes, BitVec.getLsbD_zero]
      split_ifs <;> simp⟩

theorem qDec (bits index : Byte) : Statement (.qDec bits index) :=
  (OpRow.admits_mk (mo := 0xFF) (ma := 0) (md := (BitVec.allOnes 56 ++ (0 : BitVec 8) : BitVec 64)) (po := 0x32)
    (pa := 0) (pd := 0) rfl rfl).mpr ⟨show (0x32 : Byte) &&& 0xFF = 0x32 by decide, by simp [Instr.argA], by
      apply BitVec.eq_of_getLsbD_eq
      intro i hi
      simp only [Instr.argD, BitVec.getLsbD_and, BitVec.getLsbD_append, BitVec.getLsbD_allOnes, BitVec.getLsbD_zero]
      split_ifs <;> simp⟩

theorem frmSer : Statement .frmSer := by unfold Statement; decide

theorem frmDes : Statement .frmDes := by unfold Statement; decide

theorem imgNew (width height : Dim) (r g b : Byte) : Statement (.imgNew width height r g b) :=
  (OpRow.admits_mk (mo := 0xFF) (ma := 0xFF) (md := (BitVec.allOnes 8 ++ (0 : BitVec 56) : BitVec 64)) (po := 0x50)
    (pa := 0) (pd := 0) rfl rfl).mpr ⟨show (0x50 : Byte) &&& 0xFF = 0x50 by decide, show (0 : Byte) &&& 0xFF = 0 by decide, by
      apply BitVec.eq_of_getLsbD_eq
      intro i hi
      simp only [Instr.argD, BitVec.getLsbD_and, BitVec.getLsbD_append, BitVec.getLsbD_allOnes, BitVec.getLsbD_zero]
      split_ifs <;> simp <;> omega⟩

theorem imgColors : Statement .imgColors := by unfold Statement; decide

theorem imgPixels : Statement .imgPixels := by unfold Statement; decide

theorem imgBytes : Statement .imgBytes := by unfold Statement; decide

end Sys2Proof.Laws.EncodedInItsRow
end

