-- ==== Sys2Proof/Tests/Slice0.lean ====
section
/-! SUPPORT. The model's own tests. Expected results are the spec's: words of 30_encoding R90 to R94 and of 95_test_vectors
section 2.7, and the vectors V-... of 95_test_vectors. Then, for each statement with hypotheses, a state and operands
that meet them, at the boundary of each clause. -/

namespace Sys2Proof.Tests

open Sys2Proof Sys2Proof.Machine

set_option Elab.async false

/-! ## WellFormed refuses what 30_encoding R91 to R93 call illegal -/

theorem test_wf_write_width_0 : (Instr.bswWrite 0 0).wellFormed = false := by decide
theorem test_wf_write_width_65 : (Instr.bswWrite 65 0).wellFormed = false := by decide
theorem test_wf_write_value_too_wide : (Instr.bswWrite 3 8).wellFormed = false := by decide
theorem test_wf_write_widest : (Instr.bswWrite 64 0xFFFFFFFFFFFFFFFF).wellFormed = true := by decide
theorem test_wf_read_width_0 : (Instr.bsrRead 0).wellFormed = false := by decide
theorem test_wf_read_width_65 : (Instr.bsrRead 65).wellFormed = false := by decide
theorem test_wf_enc_bits_9 : (Instr.qEnc 9 0).wellFormed = false := by decide
theorem test_wf_dec_bits_9 : (Instr.qDec 9 0).wellFormed = false := by decide
theorem test_wf_dec_index_too_wide : (Instr.qDec 0 1).wellFormed = false := by decide

/-! ## Decoding -/

theorem test_decode_bswInit : decode 0x10000000000000000000 = .ok .bswInit := by decide +kernel
/-- Bit by bit: op 0001 0001, a 0100 0000, d 0x0123456789ABCDEF (R90, R91). -/
theorem test_decode_bswWrite :
    decode 0b00010001010000000000000100100011010001010110011110001001101010111100110111101111 =
      .ok (.bswWrite 64 0x0123456789ABCDEF) := by decide +kernel
theorem test_decode_bswFin : decode 0x12000000000000000000 = .ok .bswFin := by decide +kernel
theorem test_decode_bswPos : decode 0x13000000000000000000 = .ok .bswPos := by decide +kernel
theorem test_decode_bsrBind : decode 0x20000000000000000000 = .ok .bsrBind := by decide +kernel
/-- Bit by bit: op 0010 0001, a 0000 1100, d 0 (R90, R91). -/
theorem test_decode_bsrRead :
    decode 0b00100001000011000000000000000000000000000000000000000000000000000000000000000000 = .ok (.bsrRead 12) := by
  decide +kernel
theorem test_decode_bsrPos : decode 0x23000000000000000000 = .ok .bsrPos := by decide +kernel
/-- Bit by bit: op 0011 0000, a 0, d[63:24] 0, r 0000 1001, g 0000 0110, b 0000 0101 (R92). -/
theorem test_decode_qNew :
    decode 0b00110000000000000000000000000000000000000000000000000000000010010000011000000101 = .ok (.qNew 9 6 5) := by
  decide +kernel
theorem test_decode_qEnc : decode 0x310500000000000000C8 = .ok (.qEnc 5 200) := by decide +kernel
theorem test_decode_qDec : decode 0x32050000000000000019 = .ok (.qDec 5 25) := by decide +kernel
theorem test_decode_frmSer : decode 0x40000000000000000000 = .ok .frmSer := by decide +kernel
/-- Bit by bit: op 0100 0001, all else 0 (R90). -/
theorem test_decode_frmDes :
    decode 0b01000001000000000000000000000000000000000000000000000000000000000000000000000000 = .ok .frmDes := by
  decide +kernel
/-- Bit by bit: op 0101 0000, a 0, d[63:56] 0, width 2, height 3, r 5, g 6, b 7 (R92). -/
theorem test_decode_imgNew :
    decode 0b01010000000000000000000000000000000000100000000000000011000001010000011000000111 =
      .ok (.imgNew 2 3 5 6 7) := by decide +kernel
theorem test_decode_imgColors : decode 0x51000000000000000000 = .ok .imgColors := by decide +kernel
theorem test_decode_imgPixels : decode 0x52000000000000000000 = .ok .imgPixels := by decide +kernel
theorem test_decode_imgBytes : decode 0x53000000000000000000 = .ok .imgBytes := by decide +kernel

/-- The illegal words of 95_test_vectors section 2.7. -/
theorem test_decode_illegal :
    decode 0x210C0000000000000001 = .error .mustBeZero ∧ decode 0x30000000000001050605 = .error .mustBeZero ∧
    decode 0x31050000000000000100 = .error .mustBeZero ∧ decode 0x12010000000000000000 = .error .mustBeZero ∧
    decode 0 = .error .unknownOp ∧ decode 0x22000000000000000000 = .error .unknownOp ∧
    decode 0xFF000000000000000000 = .error .unknownOp := by decide +kernel

theorem test_encode_imgNew : encode (.imgNew 2 2 5 6 5) = 0x50000000020002050605 := by decide +kernel

/-- No word belongs to two rows of the opcode table. -/
theorem test_rows_disjoint :
    Instr.allRows.Pairwise fun i j => (i.row.pattern ^^^ j.row.pattern) &&& i.row.mask &&& j.row.mask ≠ 0 := by
  decide +kernel

theorem test_table_word : decodeTableWord 80 0x11030000000000000005 = some (.bswWrite 3 5) := by decide +kernel

/-- No 80-bit word holds the number. -/
theorem test_table_word_too_long : decodeTableWord 88 (2 ^ 80) = none := by decide +kernel

/-! ## One step of each command -/

/-- The state after one command. -/
def after (i : Instr) (s : State) : Option State := runAll [i] s

/-- A writer with this buffer and cursor. -/
def writing (buf : List Byte) (cur : Nat) : State := { State.reset with w := { buf := buf, cur := cur, mode := .opened } }

/-- The state after `BSW.FIN` of the bytes `A0` (V-W16). -/
def finished : State :=
  { State.reset with w := { buf := [0xA0], cur := 3, mode := .consumed }, out := [0xA0], outValid := true }

/-- A reader bound to these bytes. -/
def reading (buf : List Byte) (cur : Nat) : State := { State.reset with r := { buf := buf, cur := cur, bound := true } }

/-- These bytes stand in `IN`. -/
def staged (bytes : List Byte) : State := { State.reset with inBuf := bytes }

/-- The four pixels of V-S2. -/
def pixels2 : List Rgb := [⟨255, 0, 0⟩, ⟨0, 255, 0⟩, ⟨0, 0, 255⟩, ⟨18, 52, 86⟩]

/-- The Image of V-S2. -/
def image2 : Image := { width := 2, height := 2, q := ⟨5, 6, 5⟩, pix := pixels2 }

/-- The bytes of V-S2. -/
def bytes2 : List Byte :=
  [0x67, 0x72, 0x6E, 0x66, 0x6C, 0x64, 0x34, 0x32, 0x00, 0x02, 0x00, 0x02, 0x56, 0x5F, 0x80, 0x00, 0x7E, 0x00, 0x01,
    0xF1, 0x1A, 0xA0]

/-- The bytes of V-S1. -/
def bytes1 : List Byte :=
  [0x67, 0x72, 0x6E, 0x66, 0x6C, 0x64, 0x34, 0x32, 0x00, 0x01, 0x00, 0x01, 0x88, 0x8F, 0xFF, 0xFF, 0xF0]

/-- The Image of V-S2 is in the store. -/
def stored : State := { State.reset with img := image2, imgValid := true }

/-- An abort stands. -/
def aborted : State := { State.reset with abortSet := true, abortCause := .badWidth }

/-- V-W18. -/
theorem test_bswInit_reopens : (after .bswInit finished).map (fun t => (t.w, t.out)) =
    some ({ buf := [], cur := 0, mode := .opened }, [0xA0]) := by decide +kernel

/-- V-W10. -/
theorem test_bswWrite_nine_bytes : (after (.bswWrite 64 0x0123456789ABCDEF) (writing [0x80] 1)).map (fun t => (t.w.buf, t.w.cur)) =
    some ([0x80, 0x91, 0xA2, 0xB3, 0xC4, 0xD5, 0xE6, 0xF7, 0x80], 65) := by decide +kernel

/-- V-W13. -/
theorem test_bswWrite_value_too_wide : (after (.bswWrite 3 8) State.reset).map (fun t => (t.w.buf, t.abortSet, t.abortCause.code)) =
    some ([], true, 3) := by decide +kernel

/-- V-W3. -/
theorem test_bswFin_pads : (after .bswFin (writing [0xA0] 3)).map (fun t => (t.out, t.w.mode)) = some ([0xA0], .consumed) := by
  decide +kernel

/-- V-W16. -/
theorem test_bswFin_twice : (after .bswFin finished).map (fun t => (t.abortCause.code, t.out, t.outValid)) =
    some (4, [0xA0], true) := by decide +kernel

/-- Program P1. -/
theorem test_bswPos : (after .bswPos (writing [0xA6, 0xAB, 0xC0] 20)).map (fun t => (t.res, t.resValid)) = some (20, true) := by
  decide +kernel

/-- Program P1. -/
theorem test_bsrBind : (after .bsrBind (staged [0xA6, 0xAB, 0xC0])).map (fun t => t.r) =
    some { buf := [0xA6, 0xAB, 0xC0], cur := 0, bound := true } := by decide +kernel

/-- V-R2. -/
theorem test_bsrRead_64_misaligned :
    (after (.bsrRead 64) (reading [0x80, 0x91, 0xA2, 0xB3, 0xC4, 0xD5, 0xE6, 0xF7, 0x80] 1)).map (fun t => (t.res, t.r.cur)) =
      some (0x0123456789ABCDEF, 65) := by decide +kernel

/-- V-R8. -/
theorem test_bsrRead_one_bit_short : (after (.bsrRead 9) (reading [0xFF] 0)).map (fun t => (t.st.code, t.r.cur, t.resValid)) =
    some (5, 0, false) := by decide +kernel

/-- 41 R134, on the reader of program P1. -/
theorem test_bsrPos : (after .bsrPos (reading [0xA6, 0xAB, 0xC0] 20)).map (fun t => (t.res, t.resValid)) = some (20, true) := by
  decide +kernel

/-- V-Q1. -/
theorem test_qNew : (after (.qNew 5 6 5) State.reset).map (fun t => (t.q, t.qValid)) = some (⟨5, 6, 5⟩, true) := by
  decide +kernel

/-- V-Q5. -/
theorem test_qNew_255 : (after (.qNew 8 8 255) State.reset).map (fun t => (t.qValid, t.st.code)) = some (false, 2) := by
  decide +kernel

/-- V-Q6. -/
theorem test_qEnc : (after (.qEnc 5 200) State.reset).map (fun t => t.res) = some 25 := by decide +kernel

/-- V-Q13. -/
theorem test_qEnc_bits_9 : (after (.qEnc 9 0) State.reset).map (fun t => t.abortCause.code) = some 6 := by decide +kernel

/-- V-Q7. -/
theorem test_qDec : (after (.qDec 5 25) State.reset).map (fun t => t.res) = some 204 := by decide +kernel

/-- V-Q15. -/
theorem test_qDec_index_too_wide : (after (.qDec 0 1) State.reset).map (fun t => t.abortCause.code) = some 7 := by
  decide +kernel

/-- V-S2. -/
theorem test_frmSer : (after .frmSer stored).map (fun t => (t.out, t.w.cur)) = some (bytes2, 172) := by decide +kernel

/-- V-S4: widths 1, 0 and 2. -/
theorem test_serialize_zero_width :
    serialize config { width := 3, height := 1, q := ⟨1, 0, 2⟩, pix := [⟨0, 9, 0⟩, ⟨128, 9, 64⟩, ⟨255, 9, 255⟩] } =
      [0x67, 0x72, 0x6E, 0x66, 0x6C, 0x64, 0x34, 0x32, 0x00, 0x03, 0x00, 0x01, 0x10, 0x21, 0x78] := by decide +kernel

/-- V-L1: "under the rejected padded layout the bytes would be `... 88 80 FF FF FF`". -/
theorem test_serialize_padded :
    (serialize { config with hdrPad := .nibble } { width := 1, height := 1, q := ⟨8, 8, 8⟩, pix := [⟨255, 255, 255⟩] }).drop 12 =
      [0x88, 0x80, 0xFF, 0xFF, 0xFF] := by decide +kernel

/-- V-D2. -/
theorem test_frmDes : (after .frmDes (staged bytes2)).map (fun t => (t.img, t.r.cur)) =
    some ({ width := 2, height := 2, q := ⟨5, 6, 5⟩,
            pix := [⟨252, 2, 4⟩, ⟨4, 254, 4⟩, ⟨4, 2, 252⟩, ⟨20, 54, 84⟩] }, 172) := by decide +kernel

/-- V-F7: a descriptor nibble of 9, but the last nibble cannot be read. -/
theorem test_frmDes_truncation_first :
    (after .frmDes (staged [0x67, 0x72, 0x6E, 0x66, 0x6C, 0x64, 0x34, 0x32, 0x00, 0x01, 0x00, 0x01, 0x98])).map
      (fun t => (t.st.code, t.r.cur, t.imgValid)) = some (5, 104, false) := by decide +kernel

/-- V-I1. -/
theorem test_imgNew : (after (.imgNew 2 2 5 6 5) { State.reset with pixin := pixels2 }).map (fun t => (t.img, t.imgValid)) =
    some (image2, true) := by decide +kernel

/-- V-I4: the descriptor is checked before the count. -/
theorem test_imgNew_order : (after (.imgNew 1 1 9 0 0) State.reset).map (fun t => (t.imgValid, t.st.code)) = some (false, 2) := by
  decide +kernel

/-- V-I6. -/
theorem test_imgColors : (after .imgColors stored).map (fun t => t.reply) = some (some (.result (.okColors pixels2))) := by
  decide +kernel

/-- V-I10. -/
theorem test_imgColors_no_image : (after .imgColors State.reset).map (fun t => t.abortCause.code) = some 8 := by decide +kernel

/-- V-I7. -/
theorem test_imgPixels : (after .imgPixels stored).map (fun t => t.reply) = some (some (.result (.okPixels
    [(0, 0, ⟨255, 0, 0⟩), (1, 0, ⟨0, 255, 0⟩), (0, 1, ⟨0, 0, 255⟩), (1, 1, ⟨18, 52, 86⟩)]))) := by decide +kernel

/-- V-I9. -/
theorem test_imgBytes : (after .imgBytes stored).map (fun t => t.out) = some bytes2 := by decide +kernel

/-- The first step after reset runs the word placed for it. -/
theorem test_withFetchWord : step (State.reset.withFetchWord 80 0x310500000000000000C8) =
    .next (State.reset.finishValue 25) := by rfl

/-- 10_state R32: a read of an invalid `RES`. -/
theorem test_read_res_faults : step { State.reset with host := [.readReg .res] } = .fault .resInvalid := by rfl

/-! ## Witnesses: each statement's hypotheses are met -/

theorem witness_BswInitMakesANewWriter : State.reset.abortSet = false ∧ State.reset.w.mode = .opened := by decide

/-- Widths 1 and 64, the greatest value of each; two widths that make 64 in all. -/
theorem witness_BswWriteClosedForm :
    (writing [0x80] 1).abortSet = false ∧ (writing [0x80] 1).w.Wf ∧ (writing [0x80] 1).w.mode = .opened ∧
    (1 ≤ (1 : Byte).toNat ∧ (1 : Byte).toNat ≤ 64 ∧ (1 : U64).toNat < 2 ^ (1 : Byte).toNat) ∧
    (1 ≤ (64 : Byte).toNat ∧ (64 : Byte).toNat ≤ 64 ∧ (0xFFFFFFFFFFFFFFFF : U64).toNat < 2 ^ (64 : Byte).toNat) ∧
    (1 ≤ (63 : Byte).toNat ∧ (63 : Byte).toNat + (1 : Byte).toNat ≤ 64 ∧
      (0x7FFFFFFFFFFFFFFF : U64).toNat < 2 ^ (63 : Byte).toNat) := by decide +kernel

theorem witness_BswFinHandsOverTheBytes :
    ((writing [0xA0] 3).abortSet = false ∧ (writing [0xA0] 3).w.Wf ∧ (writing [0xA0] 3).w.mode = .opened) ∧
    (finished.abortSet = false ∧ finished.w.mode = .consumed) := by decide

theorem witness_ConsumedWriterStaysConsumed :
    (State.reset.abortSet = false ∧ State.reset.w.mode = .opened ∧ ∃ t, exec .bswFin State.reset = .next t) ∧
    (finished.abortSet = false ∧ finished.w.mode = .consumed ∧ Instr.bswFin ≠ .bswInit ∧
      ∃ t, exec .bswFin finished = .next t) := ⟨⟨rfl, rfl, _, rfl⟩, rfl, rfl, by decide, _, rfl⟩

theorem witness_BswPosReturnsTheCursor :
    ((writing [] (2 ^ 64 - 1)).abortSet = false ∧ (writing [] (2 ^ 64 - 1)).w.mode = .opened ∧
      (writing [] (2 ^ 64 - 1)).w.cur < 2 ^ 64) ∧
    (finished.abortSet = false ∧ finished.w.mode = .consumed) := by decide +kernel

theorem witness_BsrBindCopiesTheInput :
    (State.reset.abortSet = false ∧ State.reset.inBuf = [] ∧ 1 ≤ (1 : Byte).toNat ∧ (64 : Byte).toNat ≤ 64) ∧
    (Instr.bsrRead 1 ≠ .bsrBind ∧ Instr.bsrRead 1 ≠ .frmDes ∧ ∃ t, exec (.bsrRead 1) (reading [0xFF] 0) = .next t) :=
  ⟨by decide, by decide, by decide, _, rfl⟩

/-- Width 64, ending exactly at the end; width 1. -/
theorem witness_BsrReadReturnsTheNextBits :
    (reading (List.replicate 8 0xFF) 0).abortSet = false ∧ (reading (List.replicate 8 0xFF) 0).r.bound = true ∧
    1 ≤ (1 : Byte).toNat ∧ (64 : Byte).toNat ≤ 64 ∧
    (reading (List.replicate 8 0xFF) 0).r.cur + (64 : Byte).toNat ≤
      8 * (reading (List.replicate 8 0xFF) 0).r.buf.length := by decide +kernel

/-- V-R4, ending exactly at the end. -/
theorem witness_BsrReadSplitsAField :
    (reading [0x12, 0x34] 0).abortSet = false ∧ (reading [0x12, 0x34] 0).r.bound = true ∧ 1 ≤ (4 : Byte).toNat ∧
    1 ≤ (12 : Byte).toNat ∧ (4 : Byte).toNat + (12 : Byte).toNat ≤ 64 ∧
    (reading [0x12, 0x34] 0).r.cur + (4 : Byte).toNat + (12 : Byte).toNat ≤
      8 * (reading [0x12, 0x34] 0).r.buf.length := by decide +kernel

/-- V-R8: too wide by one bit, then a width that fits. -/
theorem witness_BsrReadPastTheEndFails :
    (reading [0xFF] 0).abortSet = false ∧ (reading [0xFF] 0).r.bound = true ∧ 1 ≤ (9 : Byte).toNat ∧
    (9 : Byte).toNat ≤ 64 ∧ 8 * (reading [0xFF] 0).r.buf.length < (reading [0xFF] 0).r.cur + (9 : Byte).toNat ∧
    1 ≤ (8 : Byte).toNat ∧ (8 : Byte).toNat ≤ 64 ∧
    (reading [0xFF] 0).r.cur + (8 : Byte).toNat ≤ 8 * (reading [0xFF] 0).r.buf.length := by decide +kernel

theorem witness_BsrReadChecksInOrder :
    aborted.abortSet = true ∧ (State.reset.abortSet = false ∧ State.reset.r.bound = false) ∧
    ((reading [] 0).abortSet = false ∧ (reading [] 0).r.bound = true ∧ (0 : Byte).toNat < 1 ∧ 64 < (65 : Byte).toNat) ∧
    (1 ≤ (1 : Byte).toNat ∧ (1 : Byte).toNat ≤ 64 ∧
      8 * (reading [] 0).r.buf.length < (reading [] 0).r.cur + (1 : Byte).toNat) ∧
    (reading [] 0).r.buf = [] := by decide

theorem witness_BsrReadDependsOnReaderOnly :
    ((reading [0xFF] 0).abortSet = false ∧ { reading [0xFF] 0 with res := 7 }.abortSet = false ∧
      (reading [0xFF] 0).r = { reading [0xFF] 0 with res := 7 }.r) ∧
    ((reading [0xFF] 0).r.bound = true ∧ (reading [0xFF] 0).r.Wf ∧ 1 ≤ (8 : Byte).toNat ∧ (8 : Byte).toNat ≤ 64 ∧
      ∃ t, exec (.bsrRead 8) (reading [0xFF] 0) = .next t) :=
  ⟨by decide, by decide, by decide, by decide, by decide, _, rfl⟩

theorem witness_BsrPosReturnsTheCursor :
    ((reading [] (2 ^ 64 - 1)).abortSet = false ∧ (reading [] (2 ^ 64 - 1)).r.bound = true ∧
      (reading [] (2 ^ 64 - 1)).r.cur < 2 ^ 64) ∧
    (State.reset.abortSet = false ∧ State.reset.r.bound = false) := by decide +kernel

theorem witness_PosCompletesAtEveryCursor :
    (writing [] (2 ^ 64)).abortSet = false ∧ (writing [] (2 ^ 64)).w.mode = .opened ∧
    (reading [] (2 ^ 64)).abortSet = false ∧ (reading [] (2 ^ 64)).r.bound = true := by decide +kernel

theorem witness_ReaderChangesOnlyByReadAndBind :
    ((reading [0xFF] 8).r.Wf ∧ ∃ t, exec (.bsrRead 1) (reading [0xFF] 8) = .next t) ∧
    (State.reset.abortSet = false ∧ ∃ t, exec .bsrBind State.reset = .next t ∧ t.r ≠ State.reset.r) ∧
    (reading [0xFF] 0).abortSet = false ∧ ∃ t, exec (.bsrRead 8) (reading [0xFF] 0) = .next t :=
  ⟨⟨by decide, _, rfl⟩, ⟨rfl, _, rfl, by decide⟩, rfl, _, rfl⟩

theorem witness_WriterThenReaderReturnsTheFields :
    State.reset.abortSet = false ∧ ∀ f ∈ ([(1, 1), (64, 0xFFFFFFFFFFFFFFFF)] : List StreamField), f.Fits :=
  ⟨rfl, List.forall_mem_cons.mpr ⟨by decide, List.forall_mem_cons.mpr ⟨by decide +kernel, by simp⟩⟩⟩

theorem witness_QNewSetsOrRefuses :
    State.reset.abortSet = false ∧ ((8 : Byte).toNat ≤ 8 ∧ (0 : Byte).toNat ≤ 8) ∧
    (8 < (9 : Byte).toNat ∧ 8 < (255 : Byte).toNat) := by decide

theorem witness_QEncReturnsTheTopBits :
    State.reset.abortSet = false ∧ (0 : Byte).toNat ≤ 8 ∧ (8 : Byte).toNat ≤ 8 ∧ 8 < (9 : Byte).toNat := by decide

theorem witness_QDecReturnsTheMidpoint :
    State.reset.abortSet = false ∧ ((0 : Byte).toNat ≤ 8 ∧ (0 : Byte).toNat < 2 ^ (0 : Byte).toNat) ∧
    ((7 : Byte).toNat ≤ 8 ∧ (127 : Byte).toNat < 2 ^ (7 : Byte).toNat) ∧
    ((8 : Byte).toNat ≤ 8 ∧ (255 : Byte).toNat < 2 ^ (8 : Byte).toNat) ∧
    8 < (9 : Byte).toNat ∧ 2 ^ (0 : Byte).toNat ≤ (1 : Byte).toNat ∧ 2 ^ (7 : Byte).toNat ≤ (128 : Byte).toNat := by
  decide +kernel

theorem witness_QReencodeIsIdempotent :
    State.reset.abortSet = false ∧ (0 : Byte).toNat ≤ 8 ∧ (8 : Byte).toNat ≤ 8 := by decide

theorem witness_QReconstructionErrorIsBounded :
    (1 ≤ 7 ∧ 7 ≤ 7) ∧ (128 : Byte).toNat % 2 ^ (8 - 7) = 0 ∧ (255 : Byte).toNat % 2 ^ (8 - 1) = 2 ^ (8 - 1) - 1 := by decide

theorem witness_FrmSerAndImgBytesFillOut :
    (stored.abortSet = false ∧ stored.imgValid = true ∧ stored.img.Wf) ∧
    State.reset.abortSet = false ∧ State.reset.imgValid = false := by decide

/-- The least Image, of one pixel and no pixel bit. -/
theorem witness_SerializedLength :
    ({ width := 1, height := 1, q := ⟨0, 0, 0⟩, pix := [⟨1, 2, 3⟩] } : Image).Wf ∧
    ({ width := 1, height := 1, q := ⟨2, 1, 1⟩, pix := [⟨1, 2, 3⟩] } : Image).Wf ∧
    ({ width := 1, height := 1, q := ⟨2, 1, 1⟩, pix := [⟨1, 2, 3⟩] } : Image).pixelDataBits ≤ 4 := by decide

theorem exists_pixels (n : Nat) : ∃ pix : List Rgb, pix.length = n :=
  ⟨List.replicate n ⟨0, 0, 0⟩, List.length_replicate⟩

/-- The greatest Image, of 65535 x 65535 black pixels. -/
theorem witness_SerializedLength_greatest :
    ∃ img : Image, img.Wf ∧ img.width.toNat = 65535 ∧ img.height.toNat = 65535 ∧ img.q = ⟨8, 8, 8⟩ := by
  obtain ⟨pix, hp⟩ := exists_pixels (pixelCount 65535 65535)
  exact ⟨{ width := 65535, height := 65535, q := ⟨8, 8, 8⟩, pix := pix }, ⟨show 1 ≤ (65535 : Dim).toNat by decide,
    show 1 ≤ (65535 : Dim).toNat by decide, show Descriptor.legal ⟨8, 8, 8⟩ = true by decide, hp⟩,
    show (65535 : Dim).toNat = 65535 by decide, show (65535 : Dim).toNat = 65535 by decide, rfl⟩

theorem witness_FrmSerIsItsCommandSequence :
    stored.abortSet = false ∧ stored.imgValid = true ∧ stored.img.Wf := by decide

theorem witness_SerializedHeaderBytes : image2.Wf := by decide

theorem witness_SerializedPixelPlacement : image2.Wf ∧ image2.pixelAt 3 = some ⟨18, 52, 86⟩ := by decide

/-- A padded stream, and one whose pixel bits end at a byte: V-S7, 120 bits. -/
theorem witness_FrmDesReadsTheDeclaredImage :
    ((staged bytes2).abortSet = false ∧ HasHeader (staged bytes2).inBuf ∧
      declaredBits (staged bytes2).inBuf ≤ 8 * (staged bytes2).inBuf.length) ∧
    HasHeader [0x67, 0x72, 0x6E, 0x66, 0x6C, 0x64, 0x34, 0x32, 0x00, 0x04, 0x00, 0x01, 0x11, 0x10, 0xE7] ∧
    declaredBits [0x67, 0x72, 0x6E, 0x66, 0x6C, 0x64, 0x34, 0x32, 0x00, 0x04, 0x00, 0x01, 0x11, 0x10, 0xE7] = 8 * 15 := by
  decide +kernel

/-- V-F1, V-F2, V-F4 and an empty `IN`: a state for each failure; then a success. -/
theorem witness_FrmDesFailureKeepsTheImage :
    (staged bytes1).abortSet = false ∧
    (after .frmDes (staged (0x47 :: bytes1.drop 1))).map (fun t => t.reply) = some (some (.result (.fail .magicMismatch))) ∧
    (after .frmDes (staged (bytes1.set 9 0))).map (fun t => t.reply) = some (some (.result (.fail .invalidDimensions))) ∧
    (after .frmDes (staged (bytes1.set 12 0x98))).map (fun t => t.reply) =
      some (some (.result (.fail .invalidQuantization))) ∧
    (after .frmDes (staged [])).map (fun t => t.reply) = some (some (.result (.fail .truncatedData))) ∧
    (after .frmDes (staged bytes1)).map (fun t => t.reply) = some (some (.result .ok)) := by decide +kernel

/-- V-F9 and V-F10: other pad bits, and another byte after them; `FRM.DES` answers `ok` at cursor 132. -/
theorem witness_FrmDesIgnoresWhatFollows :
    (staged bytes1).abortSet = false ∧ (staged (bytes1.dropLast ++ [0xFF, 0xAA])).abortSet = false ∧
    (after .frmDes (staged bytes1)).map (fun t => (t.reply, t.r.cur)) = some (some (.result .ok), 132) ∧
    132 ≤ 8 * (staged (bytes1.dropLast ++ [0xFF, 0xAA])).inBuf.length ∧
    ∀ k, k < 132 → sbit (staged (bytes1.dropLast ++ [0xFF, 0xAA])).inBuf k = sbit (staged bytes1).inBuf k := by
  decide +kernel

/-- An Image at (5,6,5), and one at (8,8,8). -/
theorem witness_SerializeThenDeserialize :
    (stored.abortSet = false ∧ stored.imgValid = true ∧ stored.img.Wf) ∧
    ({ stored with img := { image2 with q := ⟨8, 8, 8⟩ } }.img.Wf) := by decide

theorem witness_RoundTripForEveryConfiguration : image2.Wf := by decide

theorem witness_ReserializeReturnsTheSameBytes :
    stored.abortSet = false ∧ stored.imgValid = true ∧ stored.img.Wf := by decide

/-- V-L6: 16 of the 17 bytes; V-F11: 21 of the 22 bytes. -/
theorem witness_TruncatedStreamFails :
    ((staged (bytes1.take 16)).abortSet = false ∧ HasHeader (staged (bytes1.take 16)).inBuf ∧
      8 * (staged (bytes1.take 16)).inBuf.length < declaredBits (staged (bytes1.take 16)).inBuf) ∧
    ((staged (bytes2.take 21)).abortSet = false ∧ image2.Wf ∧ 21 < (serialize config image2).length ∧
      (staged (bytes2.take 21)).inBuf = (serialize config image2).take 21) := by decide +kernel

/-- One clause each, at the edges: width 0; 8 and 9 bits; one pixel too many; the exact number. -/
theorem witness_ImgNewStoresOrRefuses :
    State.reset.abortSet = false ∧ (0 : Dim).toNat = 0 ∧
    (1 ≤ (1 : Dim).toNat ∧ 1 ≤ (65535 : Dim).toNat ∧ 8 < (9 : Byte).toNat) ∧
    ((8 : Byte).toNat ≤ 8 ∧ (0 : Byte).toNat ≤ 8) ∧
    { State.reset with pixin := pixels2 }.pixin.length ≠ (3 : Dim).toNat * (1 : Dim).toNat ∧
    { State.reset with pixin := pixels2 }.pixin.length = (2 : Dim).toNat * (2 : Dim).toNat := by decide

theorem witness_ImgColorsReturnsThePixels :
    (stored.abortSet = false ∧ stored.imgValid = true ∧ stored.img.Wf) ∧
    State.reset.abortSet = false ∧ State.reset.imgValid = false := by decide

theorem witness_ImgPixelsReturnsTheTriples :
    (stored.abortSet = false ∧ stored.imgValid = true ∧ stored.img.Wf) ∧
    State.reset.abortSet = false ∧ State.reset.imgValid = false := by decide

theorem witness_ImageChangesOnlyByNewAndDes :
    ∃ t, exec (.imgNew 2 2 5 6 5) { State.reset with pixin := pixels2 } = .next t ∧ t.imgValid ≠ State.reset.imgValid :=
  ⟨_, rfl, by decide⟩

theorem witness_ResultRegistersFollowTheResult :
    (State.reset.abortSet = false ∧ (∃ t, exec (.qEnc 5 200) State.reset = .next t ∧ t.reply = some (.result (.okValue 25))) ∧
      ∃ t, exec .bswFin State.reset = .next t ∧ t.reply = some (.result (.okBytes []))) ∧
    { State.reset with host := [.readReg .res] }.host = .readReg .res :: [] ∧ State.reset.resValid = false ∧
    (State.reset.finishValue 25).resValid = true :=
  ⟨⟨rfl, ⟨_, rfl, by decide +kernel⟩, _, rfl, rfl⟩, rfl, rfl, rfl⟩

theorem witness_StatusFollowsTheResult :
    (∃ t, exec .bswInit State.reset = .next t ∧ t.Succeeding) ∧
    (∃ t, exec (.qNew 9 6 5) State.reset = .next t ∧ t.Failing .invalidQuantization) ∧
    ∃ t, exec .bsrPos State.reset = .next t ∧ t.Aborting .readerUnbound :=
  ⟨⟨_, rfl, .ok, rfl, fun _ => Result.noConfusion, fun _ => Result.noConfusion⟩, ⟨_, rfl, rfl⟩, _, rfl, rfl⟩

theorem witness_NoCommandReadsTheDescriptor : ∃ t, exec .frmSer stored = .next t := ⟨_, rfl⟩

theorem witness_AbortIsStickyUntilReset :
    (State.reset.abortSet = false ∧ violation State.reset .bsrPos = some .readerUnbound) ∧
    (aborted.abortSet = true ∧ (∀ rest, aborted.host ≠ .reset :: rest) ∧ ∃ t, step aborted = .next t) ∧
    { aborted with host := [.reset] }.host = .reset :: [] :=
  ⟨by decide, ⟨rfl, fun _ => by simp [aborted, State.reset], _, rfl⟩, rfl⟩

/-- A violation and its neighbour that is none, for each operand check. -/
theorem witness_CommandAbortsExactlyOnViolation :
    State.reset.abortSet = false ∧ violation State.reset (.bswWrite 0 0) = some .badWidth ∧
    violation State.reset (.bswWrite 65 0) = some .badWidth ∧ violation State.reset (.bswWrite 3 8) = some .valueTooWide ∧
    violation State.reset (.bswWrite 3 7) = none ∧ violation finished .bswFin = some .writerConsumed ∧
    violation State.reset (.qEnc 9 0) = some .badBits ∧ violation State.reset (.qEnc 8 0) = none ∧
    violation State.reset (.qDec 0 1) = some .indexTooWide ∧ violation State.reset (.qDec 0 0) = none ∧
    violation State.reset .frmSer = some .noImage ∧ ∃ t, exec (.qDec 0 0) State.reset = .next t :=
  ⟨by decide, by decide, by decide, by decide, by decide, by decide, by decide, by decide, by decide, by decide, by decide,
    _, rfl⟩

theorem witness_IllegalWordAborts :
    { State.reset with host := [.command 0] }.host = .command 0 :: [] ∧ decode 0 = .error .unknownOp ∧
    decode 0x210C0000000000000001 = .error .mustBeZero ∧ State.reset.abortSet = false ∧ aborted.abortSet = true := by
  decide +kernel

theorem witness_LegalOperandsAreNotAborted :
    (Instr.bswWrite 64 0xFFFFFFFFFFFFFFFF).wellFormed = true ∧ finished.abortSet = false ∧
    ∃ t, exec (.bswWrite 64 0xFFFFFFFFFFFFFFFF) finished = .next t ∧ t.Aborting .writerConsumed :=
  ⟨by decide, rfl, _, rfl, rfl⟩

theorem witness_InvalidDimensionsExactly :
    State.reset.abortSet = false ∧ ∃ t, exec (.imgNew 0 1 5 6 5) State.reset = .next t ∧ t.Failing .invalidDimensions :=
  ⟨rfl, _, rfl, rfl⟩

theorem witness_InvalidQuantizationExactly :
    State.reset.abortSet = false ∧ ∃ t, exec (.qNew 8 8 9) State.reset = .next t ∧ t.Failing .invalidQuantization :=
  ⟨rfl, _, rfl, rfl⟩

theorem witness_PixelCountMismatchExactly :
    State.reset.abortSet = false ∧ ∃ t, exec (.imgNew 1 1 5 6 5) State.reset = .next t ∧ t.Failing .pixelCountMismatch :=
  ⟨rfl, _, rfl, rfl⟩

/-- V-L5: eight bytes of zero. -/
theorem witness_MagicMismatchExactly :
    (staged (List.replicate 8 0)).abortSet = false ∧
    (after .frmDes (staged (List.replicate 8 0))).map (fun t => t.reply) = some (some (.result (.fail .magicMismatch))) := by
  decide +kernel

/-- V-L6. -/
theorem witness_TruncatedDataExactly :
    (staged (bytes1.take 16)).abortSet = false ∧
    (after .frmDes (staged (bytes1.take 16))).map (fun t => t.reply) = some (some (.result (.fail .truncatedData))) := by
  decide +kernel

theorem witness_CollaboratorFailuresNeverRaised : ∃ t, exec .frmDes State.reset = .next t := ⟨_, rfl⟩

theorem witness_WhatAFailureChanges :
    State.reset.abortSet = false ∧ ∃ t, exec (.qNew 9 6 5) State.reset = .next t ∧ t.Failing .invalidQuantization :=
  ⟨rfl, _, rfl, rfl⟩

theorem witness_StepRunsTheDecodedCommand :
    { State.reset with host := [.command 0x12000000000000000000] }.host = .command 0x12000000000000000000 :: [] ∧
    decode 0x12000000000000000000 = .ok .bswFin := by decide +kernel

theorem witness_HostActionsOnThePort :
    State.reset.host = [] ∧ { State.reset with host := [.fillIn [1]] }.host = .fillIn [1] :: [] ∧
    { State.reset with host := [.fillPixin []] }.host = .fillPixin [] :: [] ∧
    ({ finished with host := [.readReg .out] }.host = .readReg .out :: [] ∧ finished.outValid = true ∧
      State.reset.outValid = false) ∧
    { State.reset with host := [.readReg .st] }.host = .readReg .st :: [] ∧
    { State.reset with host := [.readReg .abortSet] }.host = .readReg .abortSet :: [] ∧
    ({ aborted with host := [.readReg .abortCause] }.host = .readReg .abortCause :: [] ∧ aborted.abortSet = true ∧
      State.reset.abortSet = false) := by decide

theorem witness_ResetLeavesAnEmptyBlock :
    { finished with host := [.reset] }.host = .reset :: [] ∧ ∃ t, step { finished with host := [.reset] } = .next t :=
  ⟨rfl, _, rfl⟩

theorem witness_StepKeepsTheInvariant :
    { State.reset with host := [.command 0x11030000000000000005] }.Inv ∧
    ∃ t, step { State.reset with host := [.command 0x11030000000000000005] } = .next t := ⟨by decide, _, rfl⟩

theorem witness_EncodeDecode : decode 0x11030000000000000005 = .ok (.bswWrite 3 5) := by decide +kernel

theorem witness_DecoderFollowsTheOpcodeTable : decode 0x50000000020002050605 = .ok (.imgNew 2 2 5 6 5) := by decide +kernel

end Sys2Proof.Tests
end

