-- ==== Sys2Proof/Proofs/Scope.lean ====
section
/-! PROOFS. The step on a legal command word (00_scope R10; 30_encoding R90). -/

namespace Sys2Proof.Machine

/-- The `decode … = .ok` branch of `step`, said once: a legal command word at the head of the host's list is run on
the state with that action taken. -/
theorem step_command_of_decode_ok {s : State} {w : CmdWord} {i : Instr} {rest : List HostAction}
    (hhost : s.host = .command w :: rest) (hdecode : decode w = .ok i) : step s = exec i (s.took rest) := by
  simp only [step, hhost, hdecode]

/-- Settles O51: the state a command word runs on is `State.took`, the host's list without that action and the reply
cleared. -/
theorem stepRunsTheDecodedCommand : Obligations.StepRunsTheDecodedCommand := by
  intro s w i rest hhost hdecode
  calc step s = exec i (s.took rest) := step_command_of_decode_ok hhost hdecode
    _ = exec i { s with host := rest, reply := none } := by rw [State.took]

end Sys2Proof.Machine
end

section
/-! PROOFS. The state: what every command does to each of its parts, how a command ends, what a step can be, and the
invariant that every step keeps (10_state R20 to R38; 70 R260). -/

namespace Sys2Proof.Machine

/-! ## Commands that can fail -/

/-- Everything a `BSR.READ` whose contract holds can do (41 R131, R132). -/
theorem effect_bsrRead_cases (s : State) (w : Byte) :
    (s.r.short w.toNat = false ∧
      effect s (.bsrRead w) = { s with r := s.r.advance w.toNat }.finishValue (s.r.field w.toNat)) ∨
    effect s (.bsrRead w) = s.failWith .truncatedData := by
  by_cases h : bitlen s.r.buf < s.r.cur + w.toNat
  · exact .inr (if_pos h)
  · exact .inl ⟨decide_eq_false h, if_neg h⟩

/-- Everything a `Q.NEW` can do (42 R150). -/
theorem effect_qNew_cases (s : State) (r g b : Byte) :
    (channelWidthsLegal r g b = true ∧
      effect s (.qNew r g b) = { s with q := descriptorOf r g b, qValid := true }.finish .ok) ∨
    effect s (.qNew r g b) = s.failWith .invalidQuantization := by
  by_cases h : channelWidthsLegal r g b = true
  · exact .inl ⟨h, if_pos h⟩
  · exact .inr (if_neg h)

/-- Everything an `IMG.NEW` can do: store an Image that passed the three checks, or fail (44 R200). -/
theorem effect_imgNew_cases (s : State) (width height : Dim) (r g b : Byte) :
    (∃ img : Image, img.Wf ∧
      effect s (.imgNew width height r g b) = { s with img := img, imgValid := true }.finish .ok) ∨
    ∃ f, effect s (.imgNew width height r g b) = s.failWith f := by
  simp only [effect]
  split_ifs with hdim hq hpix
  · obtain ⟨hwidth, hheight⟩ := dimensionsLegal_eq_true.mp hdim
    exact .inl ⟨_, ⟨hwidth, hheight, descriptorOf_legal hq, hpix⟩, rfl⟩
  · exact .inr ⟨_, rfl⟩
  · exact .inr ⟨_, rfl⟩
  · exact .inr ⟨_, rfl⟩

/-- Everything `FRM.DES` can do: store a validated Image, or fail; either way the reader is where the sequence left it
(43 R174, R176). -/
theorem effect_frmDes_cases (s : State) :
    (∃ img : Image, img.Wf ∧ effect s .frmDes =
      { s with r := (deserialize config s.inBuf).1, img := img, imgValid := true }.finish .ok) ∨
    ∃ f, effect s .frmDes = { s with r := (deserialize config s.inBuf).1 }.failWith f := by
  simp only [effect, State.deserializeInput]
  rcases hd : deserialize config s.inBuf with ⟨r, f | img⟩
  · exact .inr ⟨f, rfl⟩
  · exact .inl ⟨img, deserialize_image_wf hd, rfl⟩

/-! ## How a command ends (10_state R32, R33) -/

/-- An `ok` that neither `RES` nor `OUT` latches. -/
inductive Result.Unlatched : Result → Prop
  | ok : Unlatched .ok
  | colors (cs : List Rgb) : Unlatched (.okColors cs)
  | pixels (ps : List (Nat × Nat × Rgb)) : Unlatched (.okPixels ps)

/-- The commands whose `ok` carries a `u64`. -/
def ReturnsValue (i : Instr) : Prop :=
  (∃ w, i = .bsrRead w) ∨ (∃ b v, i = .qEnc b v) ∨ (∃ b x, i = .qDec b x) ∨ i = .bswPos ∨ i = .bsrPos

/-- The commands whose `ok` carries a byte sequence. -/
def ReturnsBytes (i : Instr) : Prop := i = .bswFin ∨ i = .frmSer ∨ i = .imgBytes

/-- `u` agrees with `s` on `OUT` and on `ABORT.set`, which a command writes when it ends, if at all. -/
abbrev State.SameOutputs (s u : State) : Prop :=
  u.out = s.out ∧ u.outValid = s.outValid ∧ u.abortSet = s.abortSet

/-- The ways `i`, begun in `s`, ends once its contract checks have passed; `u` is the state with the spaces and the
descriptor already written. -/
inductive Ends (s : State) (i : Instr) : State → Prop
  | finish (u : State) (hu : s.SameOutputs u) {x : Result} (hx : x.Unlatched) : Ends s i (u.finish x)
  | value (u : State) (hu : s.SameOutputs u) (v : U64) (hi : ReturnsValue i) : Ends s i (u.finishValue v)
  | bytes (u : State) (bs : List Byte) (hu : s.SameOutputs u) (hi : ReturnsBytes i) : Ends s i (u.finishBytes bs)
  | fail (u : State) (hu : s.SameOutputs u) (f : Failure) : Ends s i (u.failWith f)

theorem State.SameOutputs.refl (s : State) : s.SameOutputs s := ⟨rfl, rfl, rfl⟩

theorem State.SameOutputs.write (s : State) {w : Writer} {r : Reader} {q : Descriptor} {qValid : Bool} {img : Image}
    {imgValid : Bool} :
    s.SameOutputs { s with w := w, r := r, q := q, qValid := qValid, img := img, imgValid := imgValid } :=
  ⟨rfl, rfl, rfl⟩

theorem effect_ends (s : State) (i : Instr) : Ends s i (effect s i) := by
  cases i with
  | bswInit => exact .finish _ (.write s) .ok
  | bswWrite w v => exact .finish _ (.write s) .ok
  | bswFin => exact .bytes _ _ (.write s) (.inl rfl)
  | bswPos => exact .value s (.refl s) _ (.inr (.inr (.inr (.inl rfl))))
  | bsrBind => exact .finish _ (.write s) .ok
  | bsrRead w =>
    obtain ⟨-, h⟩ | h := effect_bsrRead_cases s w <;> rw [h]
    · exact .value _ (.write s) _ (.inl ⟨w, rfl⟩)
    · exact .fail s (.refl s) _
  | bsrPos => exact .value s (.refl s) _ (.inr (.inr (.inr (.inr rfl))))
  | qNew r g b =>
    obtain ⟨-, h⟩ | h := effect_qNew_cases s r g b <;> rw [h]
    · exact .finish _ (.write s) .ok
    · exact .fail s (.refl s) _
  | qEnc bits value => exact .value s (.refl s) _ (.inr (.inl ⟨bits, value, rfl⟩))
  | qDec bits index => exact .value s (.refl s) _ (.inr (.inr (.inl ⟨bits, index, rfl⟩)))
  | frmSer => exact .bytes _ _ (.write s) (.inr (.inl rfl))
  | frmDes =>
    obtain ⟨img, -, h⟩ | ⟨f, h⟩ := effect_frmDes_cases s <;> rw [h]
    · exact .finish _ (.write s) .ok
    · exact .fail _ (.write s) f
  | imgNew width height r g b =>
    obtain ⟨img, -, h⟩ | ⟨f, h⟩ := effect_imgNew_cases s width height r g b <;> rw [h]
    · exact .finish _ (.write s) .ok
    · exact .fail s (.refl s) f
  | imgColors => exact .finish s (.refl s) (.colors _)
  | imgPixels => exact .finish s (.refl s) (.pixels _)
  | imgBytes => exact .bytes _ _ (.write s) (.inr (.inr rfl))

/-- Everything a command can do, by the way it ends: a standing abort answered, an abort taken, or an end of its own. -/
theorem exec_ends {i : Instr} {s t : State} (h : exec i s = .next t) :
    (s.abortSet = true ∧ t = s.answer (.abort s.abortCause)) ∨
    (s.abortSet = false ∧ ∃ c, t = s.takeAbort c) ∨ (s.abortSet = false ∧ Ends s i t) := by
  obtain h | ⟨ha, c, -, ht⟩ | ⟨ha, -, ht⟩ := exec_cases h
  · exact .inl h
  · exact .inr (.inl ⟨ha, c, ht⟩)
  · exact .inr (.inr ⟨ha, ht ▸ effect_ends s i⟩)

/-- Whether a command succeeded, from the result it handed over. -/
theorem State.succeeding_iff {t : State} {x : Result} (h : t.reply = some (.result x)) :
    t.Succeeding ↔ (∀ f, x ≠ .fail f) ∧ ∀ c, x ≠ .abort c := by
  simp [State.Succeeding, h]

@[simp] theorem State.finish_succeeding (s : State) {x : Result} (hx : x.Unlatched) : (s.finish x).Succeeding := by
  cases hx <;> simp [State.succeeding_iff (State.finish_reply s _)]

@[simp] theorem State.finishValue_succeeding (s : State) (v : U64) : (s.finishValue v).Succeeding := by
  simp [State.succeeding_iff (State.finishValue_reply s v)]

@[simp] theorem State.failWith_not_succeeding (s : State) (f : Failure) : ¬ (s.failWith f).Succeeding := by
  simp [State.succeeding_iff (State.failWith_reply s f)]

@[simp] theorem State.takeAbort_not_succeeding (s : State) (c : AbortCause) : ¬ (s.takeAbort c).Succeeding := by
  simp [State.succeeding_iff (State.takeAbort_reply s c)]

@[simp] theorem State.answer_abort_not_succeeding (s : State) (c : AbortCause) :
    ¬ (s.answer (.abort c)).Succeeding := by
  simp [State.succeeding_iff (State.answer_reply s (.abort c))]

/-! ## What a command does to each part of the state -/

/-- `BSW.WRITE` passes its contract checks on an open writer only (40 R114). -/
theorem opened_of_bswWrite {s : State} {w : Byte} {v : U64} (h : violation s (.bswWrite w v) = none) :
    s.w.mode = .opened := by
  cases hm : s.w.mode with
  | opened => rfl
  | consumed => simp [violation, hm] at h

/-- Everything a command can do to the writer and to `OUT`: leave both, leave an open writer, or consume the writer with
its bytes in `OUT` (40 R110 to R114; 43 R170). -/
theorem exec_writer_cases {i : Instr} {s t : State} (h : exec i s = .next t) :
    (t.w = s.w ∧ t.out = s.out ∧ t.outValid = s.outValid) ∨
    (t.w.mode = .opened ∧ (s.w.Wf → t.w.Wf)) ∨
    (t.outValid = true ∧ t.out = t.w.buf ∧ (s.w.Wf → t.w.Wf)) := by
  obtain ⟨-, rfl⟩ | ⟨-, c, -, rfl⟩ | ⟨-, hv, rfl⟩ := exec_cases h
  · exact .inl ⟨rfl, rfl, rfl⟩
  · exact .inl ⟨rfl, rfl, rfl⟩
  · cases i with
    | bswInit => exact .inr (.inl ⟨rfl, fun _ => Writer.fresh_wf⟩)
    | bswWrite w v => exact .inr (.inl ⟨opened_of_bswWrite hv, fun hw => Writer.put_wf hw w.toNat v⟩)
    | bswFin => exact .inr (.inr ⟨rfl, rfl, Writer.finalize_wf⟩)
    | frmSer => exact .inr (.inr ⟨rfl, rfl, fun _ => serializeWriter_wf config s.img⟩)
    | imgBytes => exact .inr (.inr ⟨rfl, rfl, fun _ => serializeWriter_wf config s.img⟩)
    | bsrRead w => obtain ⟨-, h⟩ | h := effect_bsrRead_cases s w <;> exact .inl (h ▸ ⟨rfl, rfl, rfl⟩)
    | qNew r g b => obtain ⟨-, h⟩ | h := effect_qNew_cases s r g b <;> exact .inl (h ▸ ⟨rfl, rfl, rfl⟩)
    | frmDes => obtain ⟨_, -, h⟩ | ⟨_, h⟩ := effect_frmDes_cases s <;> exact .inl (h ▸ ⟨rfl, rfl, rfl⟩)
    | imgNew width height r g b =>
      obtain ⟨_, -, h⟩ | ⟨_, h⟩ := effect_imgNew_cases s width height r g b <;> exact .inl (h ▸ ⟨rfl, rfl, rfl⟩)
    | bswPos | bsrBind | bsrPos | qEnc | qDec | imgColors | imgPixels => exact .inl ⟨rfl, rfl, rfl⟩

/-- Everything a command can do to the reader (10_state R23). -/
theorem exec_reader_cases {i : Instr} {s t : State} (h : exec i s = .next t) :
    t.r = s.r ∨ (i = .bsrBind ∧ t.r = Reader.bindTo s.inBuf) ∨
    (i = .frmDes ∧ t.r = (deserialize config s.inBuf).1) ∨
    ∃ w, i = .bsrRead w ∧ s.r.short w.toNat = false ∧ t.r = s.r.advance w.toNat ∧ t.Succeeding := by
  obtain ⟨-, rfl⟩ | ⟨-, c, -, rfl⟩ | ⟨-, -, rfl⟩ := exec_cases h
  · exact .inl rfl
  · exact .inl rfl
  · cases i with
    | bsrBind => exact .inr (.inl ⟨rfl, rfl⟩)
    | bsrRead w =>
      obtain ⟨hshort, h⟩ | h := effect_bsrRead_cases s w
      · exact .inr (.inr (.inr ⟨w, rfl, hshort, by rw [h]; exact ⟨rfl, State.finishValue_succeeding _ _⟩⟩))
      · exact .inl (h ▸ rfl)
    | frmDes =>
      refine .inr (.inr (.inl ⟨rfl, ?_⟩))
      obtain ⟨_, -, h⟩ | ⟨_, h⟩ := effect_frmDes_cases s <;> exact h ▸ rfl
    | qNew r g b => obtain ⟨-, h⟩ | h := effect_qNew_cases s r g b <;> exact .inl (h ▸ rfl)
    | imgNew width height r g b =>
      obtain ⟨_, -, h⟩ | ⟨_, h⟩ := effect_imgNew_cases s width height r g b <;> exact .inl (h ▸ rfl)
    | bswInit | bswWrite | bswFin | bswPos | bsrPos | qEnc | qDec | frmSer | imgColors | imgPixels | imgBytes =>
      exact .inl rfl

/-- Everything a command can do to the image store (10_state R27, R28; 44 R207). -/
theorem exec_image_cases {i : Instr} {s t : State} (h : exec i s = .next t) :
    (t.img = s.img ∧ t.imgValid = s.imgValid) ∨
    ((i = .frmDes ∨ ∃ width height r g b, i = .imgNew width height r g b) ∧
      t.Succeeding ∧ t.imgValid = true ∧ t.img.Wf) := by
  obtain ⟨-, rfl⟩ | ⟨-, c, -, rfl⟩ | ⟨-, -, rfl⟩ := exec_cases h
  · exact .inl ⟨rfl, rfl⟩
  · exact .inl ⟨rfl, rfl⟩
  · cases i with
    | frmDes =>
      obtain ⟨img, himg, h⟩ | ⟨f, h⟩ := effect_frmDes_cases s
      · exact .inr ⟨.inl rfl, h ▸ ⟨State.finish_succeeding _ .ok, rfl, himg⟩⟩
      · exact .inl (h ▸ ⟨rfl, rfl⟩)
    | imgNew width height r g b =>
      obtain ⟨img, himg, h⟩ | ⟨f, h⟩ := effect_imgNew_cases s width height r g b
      · exact .inr ⟨.inr ⟨_, _, _, _, _, rfl⟩, h ▸ ⟨State.finish_succeeding _ .ok, rfl, himg⟩⟩
      · exact .inl (h ▸ ⟨rfl, rfl⟩)
    | bsrRead w => obtain ⟨-, h⟩ | h := effect_bsrRead_cases s w <;> exact .inl (h ▸ ⟨rfl, rfl⟩)
    | qNew r g b => obtain ⟨-, h⟩ | h := effect_qNew_cases s r g b <;> exact .inl (h ▸ ⟨rfl, rfl⟩)
    | bswInit | bswWrite | bswFin | bswPos | bsrBind | bsrPos | qEnc | qDec | frmSer | imgColors | imgPixels
    | imgBytes =>
      exact .inl ⟨rfl, rfl⟩

/-- Everything a command can do to the quantizer's descriptor (10_state R24; 42 R150). -/
theorem exec_descriptor_cases {i : Instr} {s t : State} (h : exec i s = .next t) :
    (t.q = s.q ∧ t.qValid = s.qValid) ∨ t.q.legal = true := by
  obtain ⟨-, rfl⟩ | ⟨-, c, -, rfl⟩ | ⟨-, -, rfl⟩ := exec_cases h
  · exact .inl ⟨rfl, rfl⟩
  · exact .inl ⟨rfl, rfl⟩
  · cases i with
    | qNew r g b =>
      obtain ⟨hq, h⟩ | h := effect_qNew_cases s r g b
      · exact .inr (h ▸ descriptorOf_legal hq)
      · exact .inl (h ▸ ⟨rfl, rfl⟩)
    | bsrRead w => obtain ⟨-, h⟩ | h := effect_bsrRead_cases s w <;> exact .inl (h ▸ ⟨rfl, rfl⟩)
    | frmDes => obtain ⟨_, -, h⟩ | ⟨_, h⟩ := effect_frmDes_cases s <;> exact .inl (h ▸ ⟨rfl, rfl⟩)
    | imgNew width height r g b =>
      obtain ⟨_, -, h⟩ | ⟨_, h⟩ := effect_imgNew_cases s width height r g b <;> exact .inl (h ▸ ⟨rfl, rfl⟩)
    | bswInit | bswWrite | bswFin | bswPos | bsrBind | bsrPos | qEnc | qDec | frmSer | imgColors | imgPixels
    | imgBytes =>
      exact .inl ⟨rfl, rfl⟩

/-! ## Every command keeps the invariant -/

theorem exec_keeps_writer_wf {i : Instr} {s t : State} (h : exec i s = .next t) (hs : s.w.Wf) : t.w.Wf := by
  obtain ⟨hw, -, -⟩ | ⟨-, hw⟩ | ⟨-, -, hw⟩ := exec_writer_cases h
  · exact hw ▸ hs
  · exact hw hs
  · exact hw hs

theorem exec_keeps_reader_wf {i : Instr} {s t : State} (h : exec i s = .next t) (hs : s.r.Wf) : t.r.Wf := by
  obtain hr | ⟨-, hr⟩ | ⟨-, hr⟩ | ⟨w, -, hshort, hr, -⟩ := exec_reader_cases h
  · exact hr ▸ hs
  · exact hr ▸ Reader.bindTo_wf s.inBuf
  · exact hr ▸ (deserialize_reader config s.inBuf).1
  · exact hr ▸ Reader.advance_wf hshort

theorem exec_keeps_image_wf {i : Instr} {s t : State} (h : exec i s = .next t) (hs : s.imgValid = true → s.img.Wf)
    (ht : t.imgValid = true) : t.img.Wf := by
  obtain ⟨himg, hvalid⟩ | ⟨-, -, -, himg⟩ := exec_image_cases h
  · exact himg ▸ hs (hvalid ▸ ht)
  · exact himg

theorem exec_keeps_descriptor_legal {i : Instr} {s t : State} (h : exec i s = .next t)
    (hs : s.qValid = true → s.q.legal = true) (ht : t.qValid = true) : t.q.legal = true := by
  obtain ⟨hq, hvalid⟩ | hq := exec_descriptor_cases h
  · exact hq ▸ hs (hvalid ▸ ht)
  · exact hq

theorem exec_keeps_consumed_bytes {i : Instr} {s t : State} (h : exec i s = .next t)
    (hs : s.w.mode = .consumed → s.outValid = true ∧ s.out = s.w.buf) (ht : t.w.mode = .consumed) :
    t.outValid = true ∧ t.out = t.w.buf := by
  obtain ⟨hw, hout, hvalid⟩ | ⟨hmode, -⟩ | ⟨hvalid, hout, -⟩ := exec_writer_cases h
  · rw [hw, hout, hvalid]
    exact hs (hw ▸ ht)
  · simp [hmode] at ht
  · exact ⟨hvalid, hout⟩

theorem exec_keeps_result_valid {i : Instr} {s t : State} (h : exec i s = .next t)
    (hs : s.resValid = true → s.st = .ok ∧ s.abortSet = false) :
    t.resValid = true → t.st = .ok ∧ t.abortSet = false := by
  obtain ⟨-, rfl⟩ | ⟨-, c, rfl⟩ | ⟨ha, hends⟩ := exec_ends h
  · exact hs
  · exact Bool.noConfusion
  · cases hends with
    | value u hu v hi => exact fun _ => ⟨rfl, hu.2.2.trans ha⟩
    | finish | bytes | fail => exact Bool.noConfusion

theorem exec_keeps_inv {i : Instr} {s t : State} (h : exec i s = .next t) (hs : s.Inv) : t.Inv := by
  obtain ⟨⟨hw, hr, himg⟩, hq, hres, hout⟩ := hs
  exact ⟨⟨exec_keeps_writer_wf h hw, exec_keeps_reader_wf h hr, exec_keeps_image_wf h himg⟩,
    exec_keeps_descriptor_legal h hq, exec_keeps_result_valid h hres, exec_keeps_consumed_bytes h hout⟩

/-! ## What a step can be -/

section Steps
variable {s t : State} {rest : List HostAction}

theorem step_idle (h : s.host = []) : step s = .next s.idle := by
  simp only [step, h]

theorem step_command_of_decode_error {w : CmdWord} {e : DecodeRefusal} (h : s.host = .command w :: rest)
    (hd : decode w = .error e) : step s = execIllegal (s.took rest) := by
  simp only [step, h, hd]

theorem step_fillIn {bytes : List Byte} (h : s.host = .fillIn bytes :: rest) :
    step s = .next ((s.took rest).fillIn bytes) := by
  simp only [step, h]

theorem step_fillPixin {pixels : List Rgb} (h : s.host = .fillPixin pixels :: rest) :
    step s = .next ((s.took rest).fillPixin pixels) := by
  simp only [step, h]

theorem step_readReg {r : HostReg} (h : s.host = .readReg r :: rest) : step s = hostRead r (s.took rest) := by
  simp only [step, h]

theorem step_reset (h : s.host = .reset :: rest) : step s = .next (s.took rest).applyReset := by
  simp only [step, h]

/-! A host read behind a valid flag, set and clear. -/

theorem hostRead_res_valid (h : s.resValid = true) :
    hostRead .res s = .next { s with reply := some (.res s.res) } := if_pos h

theorem hostRead_res_invalid (h : s.resValid = false) : hostRead .res s = .fault .resInvalid := by
  simp [hostRead, h]

theorem hostRead_out_valid (h : s.outValid = true) :
    hostRead .out s = .next { s with reply := some (.out s.out) } := if_pos h

theorem hostRead_out_invalid (h : s.outValid = false) : hostRead .out s = .fault .outInvalid := by
  simp [hostRead, h]

theorem hostRead_abortCause_set (h : s.abortSet = true) :
    hostRead .abortCause s = .next { s with reply := some (.abortCause s.abortCause.code) } := if_pos h

theorem hostRead_abortCause_clear (h : s.abortSet = false) :
    hostRead .abortCause s = .fault .abortCauseInvalid := by
  simp [hostRead, h]

/-- Everything a host read can do: answer, and change the reply only, or fault (10_state R32 to R34). -/
theorem hostRead_cases (r : HostReg) (s : State) :
    (∃ p, hostRead r s = .next { s with reply := some p }) ∨ ∃ f, hostRead r s = .fault f := by
  cases r with
  | st | abortSet => exact .inl ⟨_, rfl⟩
  | res | out | abortCause =>
    simp only [hostRead]
    split
    · exact .inl ⟨_, rfl⟩
    · exact .inr ⟨_, rfl⟩

/-- Everything an illegal command word can do (60_exceptions R229). -/
theorem execIllegal_cases (h : execIllegal s = .next t) :
    (s.abortSet = true ∧ t = s.answer (.abort s.abortCause)) ∨ (s.abortSet = false ∧ t = s.takeAbort .illegalCmd) :=
  State.unlessAborted_cases (Host.Outcome.next.inj h)

/-- The ways a step from `s` answers the next state `t`, by the host's next action. -/
inductive Stepped (s t : State) : Prop
  | idle (hhost : s.host = []) (ht : t = s.idle)
  | command (w : CmdWord) (i : Instr) (rest : List HostAction) (hhost : s.host = .command w :: rest)
      (hd : decode w = .ok i) (ht : exec i (s.took rest) = .next t)
  | illegal (w : CmdWord) (e : DecodeRefusal) (rest : List HostAction) (hhost : s.host = .command w :: rest)
      (hd : decode w = .error e) (ht : execIllegal (s.took rest) = .next t)
  | fillIn (bytes : List Byte) (rest : List HostAction) (hhost : s.host = .fillIn bytes :: rest)
      (ht : t = (s.took rest).fillIn bytes)
  | fillPixin (pixels : List Rgb) (rest : List HostAction) (hhost : s.host = .fillPixin pixels :: rest)
      (ht : t = (s.took rest).fillPixin pixels)
  | readReg (r : HostReg) (p : Reply) (rest : List HostAction) (hhost : s.host = .readReg r :: rest)
      (ht : t = { s.took rest with reply := some p })
  | reset (rest : List HostAction) (hhost : s.host = .reset :: rest) (ht : t = (s.took rest).applyReset)

theorem step_cases (h : step s = .next t) : Stepped s t := by
  match hhost : s.host with
  | [] => exact .idle hhost (Host.Outcome.next.inj ((step_idle hhost).symm.trans h)).symm
  | .command w :: rest =>
    cases hd : decode w with
    | ok i => exact .command w i rest hhost hd (step_command_of_decode_ok hhost hd ▸ h)
    | error e => exact .illegal w e rest hhost hd (step_command_of_decode_error hhost hd ▸ h)
  | .fillIn bytes :: rest =>
    exact .fillIn bytes rest hhost (Host.Outcome.next.inj ((step_fillIn hhost).symm.trans h)).symm
  | .fillPixin pixels :: rest =>
    exact .fillPixin pixels rest hhost (Host.Outcome.next.inj ((step_fillPixin hhost).symm.trans h)).symm
  | .readReg r :: rest =>
    rw [step_readReg hhost] at h
    obtain ⟨p, hp⟩ | ⟨f, hf⟩ := hostRead_cases r (s.took rest)
    · exact .readReg r p rest hhost (Host.Outcome.next.inj (hp.symm.trans h)).symm
    · simp [hf] at h
  | .reset :: rest => exact .reset rest hhost (Host.Outcome.next.inj ((step_reset hhost).symm.trans h)).symm

end Steps

/-! ## The invariant -/

/-- Settles O55: at reset no valid flag is set and the writer is open, so only the forms of the spaces are left. -/
theorem resetHasTheInvariant : Obligations.ResetHasTheInvariant :=
  ⟨reset_memory_wf, Bool.noConfusion, Bool.noConfusion, WriterMode.noConfusion⟩

/-- The invariant does not speak of the host's actions, nor of the reply. -/
theorem State.Inv.took {s : State} (hs : s.Inv) (rest : List HostAction) : (s.took rest).Inv := hs

/-- An abort taken clears `RES.valid` and leaves the rest of what the invariant speaks of. -/
theorem State.Inv.takeAbort {s : State} (hs : s.Inv) (c : AbortCause) : (s.takeAbort c).Inv := by
  obtain ⟨hmem, hq, -, hout⟩ := hs
  exact ⟨hmem, hq, Bool.noConfusion, hout⟩

/-- Settles O56: a command keeps each conjunct (`exec_keeps_inv`), a reset establishes them anew, and the host's other
actions write nothing that the invariant speaks of. -/
theorem stepKeepsTheInvariant : Obligations.StepKeepsTheInvariant := by
  intro s t hs h
  cases step_cases h with
  | command w i rest hhost hd ht => exact exec_keeps_inv ht (hs.took rest)
  | illegal w e rest hhost hd ht =>
    obtain ⟨-, rfl⟩ | ⟨-, rfl⟩ := execIllegal_cases ht
    · exact hs
    · exact (hs.took rest).takeAbort _
  | reset rest hhost ht => exact ht ▸ resetHasTheInvariant
  | idle hhost ht => exact ht ▸ hs
  | fillIn bytes rest hhost ht => exact ht ▸ hs
  | fillPixin pixels rest hhost ht => exact ht ▸ hs
  | readReg r p rest hhost ht => exact ht ▸ hs

/-! ## The reader and the image store -/

/-- Where a `BSR.READ` leaves the reader, by whether it succeeded (10_state R23). -/
theorem exec_bsrRead_reader {w : Byte} {s t : State} (h : exec (.bsrRead w) s = .next t) :
    (t.Succeeding ∧ t.r = { s.r with cur := s.r.cur + w.toNat }) ∨ (¬ t.Succeeding ∧ t.r = s.r) := by
  obtain ⟨-, rfl⟩ | ⟨-, c, -, rfl⟩ | ⟨-, -, rfl⟩ := exec_cases h
  · exact .inr ⟨State.answer_abort_not_succeeding _ _, rfl⟩
  · exact .inr ⟨State.takeAbort_not_succeeding _ _, rfl⟩
  · obtain ⟨-, h⟩ | h := effect_bsrRead_cases s w <;> rw [h]
    · exact .inl ⟨State.finishValue_succeeding _ _, rfl⟩
    · exact .inr ⟨State.failWith_not_succeeding _ _, rfl⟩

/-- Settles O14: of the four ways a command can leave the reader (`exec_reader_cases`), the three that change it are a
bind and a successful read. -/
theorem readerChangesOnlyByReadAndBind : Obligations.ReaderChangesOnlyByReadAndBind := by
  refine ⟨fun i s t hs h => exec_keeps_reader_wf h hs, ?bind, ?read, ?only⟩
  case bind =>
    intro s t ha h
    rw [exec_of_no_violation ha rfl] at h
    exact Host.Outcome.next.inj h ▸ rfl
  case read =>
    intro w s t _ h
    obtain ⟨hok, hr⟩ | ⟨hok, hr⟩ := exec_bsrRead_reader h
    · exact ⟨fun _ => hr, fun hno => absurd hok hno⟩
    · exact ⟨fun hyes => absurd hyes hok, fun _ => hr⟩
  case only =>
    intro i s t h hne
    obtain hr | ⟨hi, -⟩ | ⟨hi, -⟩ | ⟨w, hi, -, -, hok⟩ := exec_reader_cases h
    · exact absurd hr hne
    · exact .inl hi
    · exact .inr (.inl hi)
    · exact .inr (.inr ⟨w, hi, hok⟩)

/-- Settles O36: an image store that a command changed is one that a success filled (`exec_image_cases`). -/
theorem imageChangesOnlyByNewAndDes : Obligations.ImageChangesOnlyByNewAndDes := by
  intro i s t h hne
  obtain ⟨himg, hvalid⟩ | ⟨hi, hok, hvalid, -⟩ := exec_image_cases h
  · exact absurd hne (by simp [himg, hvalid])
  · exact ⟨hi, hok, hvalid⟩

/-! ## Results, status and aborts -/

/-- Settles O37: the end of a command decides what `RES` and `OUT` hold (`exec_ends`), and a host read is `hostRead`. -/
theorem resultRegistersFollowTheResult : Obligations.ResultRegistersFollowTheResult := by
  refine ⟨?command, fun s rest hhost => ?read⟩
  case command =>
    intro i s t ha h
    obtain ⟨hset, -⟩ | ⟨-, c, rfl⟩ | ⟨-, hends⟩ := exec_ends h
    · simp [ha] at hset
    · simp
    · cases hends with
      | finish u hu hx => obtain ⟨hout, hvalid, -⟩ := hu; cases hx <;> simp [hout, hvalid]
      | value u hu v hi => obtain ⟨hout, hvalid, -⟩ := hu; simpa [hout, hvalid, ReturnsValue] using hi
      | bytes u bs hu hi => simpa [ReturnsBytes] using hi
      | fail u hu f => obtain ⟨hout, hvalid, -⟩ := hu; simp [hout, hvalid]
  case read =>
    rw [step_readReg hhost]
    exact ⟨fun h => hostRead_res_invalid h, fun h => hostRead_res_valid h⟩

/-- No contract check reads `ST`. -/
theorem violation_of_st (i : Instr) (s : State) (x : Status) : violation { s with st := x } i = violation s i := by
  cases i <;> rfl

/-- No command whose contract holds reads `ST`, and each writes it. -/
theorem effect_of_st (i : Instr) (s : State) (x : Status) : effect { s with st := x } i = effect s i := by
  cases i <;> rfl

/-- Settles O38: the end of a command decides `ST` (`exec_ends`); neither the contract checks nor the effect read it. -/
theorem statusFollowsTheResult : Obligations.StatusFollowsTheResult := by
  refine ⟨?written, ?unread, rfl, rfl, rfl, rfl, rfl, rfl, rfl⟩
  case written =>
    intro i s t h
    obtain ⟨-, rfl⟩ | ⟨-, c, rfl⟩ | ⟨-, hends⟩ := exec_ends h
    · simp
    · simp
    · cases hends with
      | finish u hu hx => cases hx <;> simp [Status.code]
      | value | bytes => simp [Status.code]
      | fail u hu f => simp [Status.code, eq_comm]
  case unread =>
    intro i s t x h
    obtain ⟨ha, rfl⟩ | ⟨ha, c, hv, rfl⟩ | ⟨ha, hv, rfl⟩ := exec_cases h
    · exact ⟨_, exec_aborted i ha, rfl⟩
    · exact ⟨_, exec_of_violation ha ((violation_of_st i s x).trans hv), rfl⟩
    · exact ⟨_, exec_of_no_violation ha ((violation_of_st i s x).trans hv), by rw [effect_of_st]⟩

/-- Settles O40: under a standing abort a command only answers (`exec_aborted`), and no host action but a reset writes
`ABORT` (`step_cases`). -/
theorem abortIsStickyUntilReset : Obligations.AbortIsStickyUntilReset := by
  refine ⟨fun i s c ha hv => ⟨_, exec_of_violation ha hv, rfl, rfl, rfl⟩, fun i s ha => exec_aborted i ha, ?sticky,
    fun s rest hhost => ⟨_, step_reset hhost, rfl⟩⟩
  case sticky =>
    intro s t ha hreset h
    cases step_cases h with
    | idle hhost ht => exact ht ▸ ⟨rfl, ha⟩
    | command w i rest hhost hd ht =>
      rw [exec_aborted i (s := s.took rest) ha] at ht
      exact Host.Outcome.next.inj ht ▸ ⟨rfl, ha⟩
    | illegal w e rest hhost hd ht =>
      obtain ⟨-, ht⟩ | ⟨hclear, -⟩ := execIllegal_cases ht
      · exact ht ▸ ⟨rfl, ha⟩
      · simp [ha] at hclear
    | fillIn bytes rest hhost ht => exact ht ▸ ⟨rfl, ha⟩
    | fillPixin pixels rest hhost ht => exact ht ▸ ⟨rfl, ha⟩
    | readReg r p rest hhost ht => exact ht ▸ ⟨rfl, ha⟩
    | reset rest hhost ht => exact absurd hhost (hreset rest)

/-! ## The host's other actions -/

/-- Settles O53: each host action by its equation of `step`, the reads by those of `hostRead`. -/
theorem hostActionsOnThePort : Obligations.HostActionsOnThePort := by
  refine ⟨fun s => step_idle, fun s bytes rest => step_fillIn, fun s pixels rest => step_fillPixin, ?out,
    fun s rest => step_readReg, fun s rest => step_readReg, ?abortCause⟩
  case out =>
    intro s rest hhost
    rw [step_readReg hhost]
    exact ⟨fun h => hostRead_out_valid h, fun h => hostRead_out_invalid h⟩
  case abortCause =>
    intro s rest hhost
    rw [step_readReg hhost]
    exact ⟨fun h => hostRead_abortCause_set h, fun h => hostRead_abortCause_clear h⟩

end Sys2Proof.Machine
end

section
/-! PROOFS. The encoding: the command word and its decoder (30_encoding R90 to R96), and the bits of a stream, as a
read returns them and as a serialized Image lays them out (R84 to R86). -/

namespace Sys2Proof

/-! ## The decoder, field by field -/

/-- A bit vector is an append exactly when its two ends are what was appended. -/
theorem eq_append_iff {m n : Nat} {d : BitVec (m + n)} {hi : BitVec m} {lo : BitVec n} :
    d = hi ++ lo ↔ d.extractLsb' n m = hi ∧ d.extractLsb' 0 n = lo := by
  constructor
  · rintro rfl
    exact ⟨BitVec.extractLsb'_append_eq_left, BitVec.extractLsb'_append_eq_right⟩
  · rintro ⟨rfl, rfl⟩
    exact BitVec.extractLsb'_append_extractLsb'.symm

/-- A stretch of a stretch is a stretch. -/
theorem extractLsb'_extractLsb' {n start len start' len' : Nat} {d : BitVec n} (h : start' + len' ≤ len) :
    (d.extractLsb' start len).extractLsb' start' len' = d.extractLsb' (start + start') len' := by
  apply BitVec.eq_of_getLsbD_eq
  intro i hi
  simp [hi, show start' + i < len by omega, Nat.add_assoc]

/-- The data field of `Q.ENC` and `Q.DEC`: one byte below 56 zero bits (30_encoding R93). -/
theorem eq_byteField_iff {d : U64} {x : Byte} :
    d = (0#56 ++ x : BitVec 64) ↔ d.extractLsb' 8 56 = 0 ∧ d.extractLsb' 0 8 = x :=
  eq_append_iff (m := 56) (n := 8)

/-- The data field of `Q.NEW`: three bytes below 40 zero bits (30_encoding R92). -/
theorem eq_descriptorField_iff {d : U64} {r g b : Byte} :
    d = (0#40 ++ r ++ g ++ b : BitVec 64) ↔
      d.extractLsb' 24 40 = 0 ∧ d.extractLsb' 16 8 = r ∧ d.extractLsb' 8 8 = g ∧ d.extractLsb' 0 8 = b := by
  rw [eq_append_iff (m := 56) (n := 8), eq_append_iff (m := 48) (n := 8), eq_append_iff (m := 40) (n := 8)]
  simp [extractLsb'_extractLsb', and_assoc]

/-- The data field of `IMG.NEW`: two dimensions and three bytes below 8 zero bits (30_encoding R92). -/
theorem eq_imageField_iff {d : U64} {width height : Dim} {r g b : Byte} :
    d = (0#8 ++ width ++ height ++ r ++ g ++ b : BitVec 64) ↔
      d.extractLsb' 56 8 = 0 ∧ d.extractLsb' 40 16 = width ∧ d.extractLsb' 24 16 = height ∧
        d.extractLsb' 16 8 = r ∧ d.extractLsb' 8 8 = g ∧ d.extractLsb' 0 8 = b := by
  rw [eq_append_iff (m := 56) (n := 8), eq_append_iff (m := 48) (n := 8), eq_append_iff (m := 40) (n := 8),
    eq_append_iff (m := 24) (n := 16), eq_append_iff (m := 8) (n := 16)]
  simp [extractLsb'_extractLsb', and_assoc]

theorem requireZero_eq_ok {zero : Bool} {i j : Instr} : requireZero zero i = .ok j ↔ zero = true ∧ i = j := by
  cases zero <;> simp [requireZero]

theorem opcode_of_requireZero {op : Byte} {zero : Bool} {i j : Instr} (hop : op.toNat = j.opcode.toNat)
    (h : requireZero zero j = .ok i) : op = i.opcode := by
  obtain ⟨-, rfl⟩ := requireZero_eq_ok.mp h
  exact BitVec.eq_of_toNat_eq hop

/-- The opcode of a word that decodes is that of its command (30_encoding R94). -/
theorem opcode_of_decodeFields {op a : Byte} {d : U64} {i : Instr} (h : decodeFields op a d = .ok i) :
    op = i.opcode := by
  unfold decodeFields at h
  split at h
  case h_2 hop => exact Except.ok.inj h ▸ BitVec.eq_of_toNat_eq hop
  case h_17 => exact nomatch h
  all_goals exact opcode_of_requireZero ‹_› h

/-- Under the opcode of a command, the decoder answers that command exactly on its operand fields (30_encoding R91 to
R93). -/
theorem decodeFields_opcode_eq_ok {i : Instr} {a : Byte} {d : U64} :
    decodeFields i.opcode a d = .ok i ↔ a = i.argA ∧ d = i.argD := by
  cases i with
  | bswWrite w v => simp [decodeFields, Instr.opcode, Instr.argA, Instr.argD]
  | bsrRead w => simp [decodeFields, requireZero_eq_ok, Instr.opcode, Instr.argA, Instr.argD, and_comm]
  | qNew r g b =>
    simp [decodeFields, requireZero_eq_ok, Instr.opcode, Instr.argA, Instr.argD, eq_descriptorField_iff, and_assoc]
  | qEnc bits value =>
    simp [decodeFields, requireZero_eq_ok, Instr.opcode, Instr.argA, Instr.argD, eq_byteField_iff, and_left_comm]
  | qDec bits index =>
    simp [decodeFields, requireZero_eq_ok, Instr.opcode, Instr.argA, Instr.argD, eq_byteField_iff, and_left_comm]
  | imgNew width height r g b =>
    simp [decodeFields, requireZero_eq_ok, Instr.opcode, Instr.argA, Instr.argD, eq_imageField_iff, and_assoc]
  | bswInit | bswFin | bswPos | bsrBind | bsrPos | frmSer | frmDes | imgColors | imgPixels | imgBytes =>
    simp [decodeFields, requireZero_eq_ok, Instr.opcode, Instr.argA, Instr.argD]

/-- The decoder and the encoder are one relation: a word decodes to a command exactly when it is the command's word. -/
theorem decode_eq_ok_iff {w : CmdWord} {i : Instr} : decode w = .ok i ↔ encode i = w := by
  constructor
  · intro h
    have hop : w.op = i.opcode := opcode_of_decodeFields h
    rw [decode, hop, decodeFields_opcode_eq_ok] at h
    obtain ⟨ha, hd⟩ := h
    rw [encode, ← hop, ← ha, ← hd, CmdWord.mk_fields]
  · rintro rfl
    rw [encode, decode_mk, decodeFields_opcode_eq_ok]
    exact ⟨rfl, rfl⟩

/-- Settles O57: the right-to-left direction of `decode_eq_ok_iff`. -/
theorem decodeEncode : Obligations.DecodeEncode := fun _ => decode_eq_ok_iff.mpr rfl

/-- Settles O58: the left-to-right direction of `decode_eq_ok_iff`. -/
theorem encodeDecode : Obligations.EncodeDecode := fun _ _ => decode_eq_ok_iff.mp

/-! ## The opcode table -/

/-- A command's word is admitted by the command's row: `EncodedInItsRow`, for every constructor. -/
theorem row_admits_encode (i : Instr) : i.row.admits (encode i) = true := by
  cases i with
  | bswInit => exact Laws.EncodedInItsRow.bswInit
  | bswWrite w v => exact Laws.EncodedInItsRow.bswWrite w v
  | bswFin => exact Laws.EncodedInItsRow.bswFin
  | bswPos => exact Laws.EncodedInItsRow.bswPos
  | bsrBind => exact Laws.EncodedInItsRow.bsrBind
  | bsrRead w => exact Laws.EncodedInItsRow.bsrRead w
  | bsrPos => exact Laws.EncodedInItsRow.bsrPos
  | qNew r g b => exact Laws.EncodedInItsRow.qNew r g b
  | qEnc bits value => exact Laws.EncodedInItsRow.qEnc bits value
  | qDec bits index => exact Laws.EncodedInItsRow.qDec bits index
  | frmSer => exact Laws.EncodedInItsRow.frmSer
  | frmDes => exact Laws.EncodedInItsRow.frmDes
  | imgNew width height r g b => exact Laws.EncodedInItsRow.imgNew width height r g b
  | imgColors => exact Laws.EncodedInItsRow.imgColors
  | imgPixels => exact Laws.EncodedInItsRow.imgPixels
  | imgBytes => exact Laws.EncodedInItsRow.imgBytes

theorem row_admits_of_decode {w : CmdWord} {i : Instr} (h : decode w = .ok i) : i.row.admits w = true :=
  decode_eq_ok_iff.mp h ▸ row_admits_encode i

/-- A command's row does not depend on its operands, so it is one of the sixteen. -/
theorem exists_mem_allRows (i : Instr) : ∃ j ∈ Instr.allRows, j.row = i.row := by
  cases i <;> simp [Instr.allRows, Instr.row]

/-- The bits from `n` on are 0 when masking with ones from `n` on leaves nothing. -/
theorem extractLsb'_eq_zero_of_and_highOnes {m n : Nat} {d : BitVec m}
    (h : d &&& (BitVec.allOnes m <<< n) = 0) : d.extractLsb' n (m - n) = 0 := by
  apply BitVec.eq_of_getLsbD_eq
  intro i hi
  have hbit := congrArg (BitVec.getLsbD · (n + i)) h
  simpa [hi, show n + i < m by omega, show i < m by omega] using hbit

/-- Every row fixes the opcode, and every other bit that it fixes at 0. -/
theorem row_pattern (i : Instr) : i.row.pattern = CmdWord.mk i.opcode 0 0 := by
  cases i <;> simp only [Instr.row, Instr.opcode] <;> decide

/-- The fields of a word that a row admits, where the row fixes the opcode, bits of `a`, and the bits of `d` from `n`
on. -/
theorem fields_of_row_admits {i : Instr} {op a ma : Byte} {d : U64} (n : Nat)
    (hmask : i.row.mask = CmdWord.mk 0xFF ma (BitVec.allOnes 64 <<< n))
    (h : i.row.admits (CmdWord.mk op a d) = true) :
    op = i.opcode ∧ a &&& ma = 0 ∧ d.extractLsb' n (64 - n) = 0 := by
  obtain ⟨hop, ha, hd⟩ := (OpRow.admits_mk hmask (row_pattern i)).mp h
  rw [show (0xFF : Byte) = BitVec.allOnes 8 from rfl, BitVec.and_allOnes] at hop
  exact ⟨hop, ha, extractLsb'_eq_zero_of_and_highOnes hd⟩

/-- A row that fixes every bit admits the word of its command only. -/
theorem decode_of_admits_fixedRow {w : CmdWord} {i : Instr} (hmask : i.row.mask = BitVec.allOnes 80)
    (h : i.row.admits w = true) : decode w = .ok i := by
  have hencode := row_admits_encode i
  rw [OpRow.admits, hmask, BitVec.and_allOnes, beq_iff_eq] at h hencode
  exact decode_eq_ok_iff.mpr (hencode.trans h.symm)

/-- Every word that a row admits decodes. -/
theorem exists_decodeFields_of_admits {i : Instr} {op a : Byte} {d : U64}
    (h : i.row.admits (CmdWord.mk op a d) = true) : ∃ j, decodeFields op a d = .ok j := by
  cases i with
  | bswWrite w v =>
    obtain ⟨rfl, -, -⟩ := fields_of_row_admits (ma := 0) 64 rfl h
    exact ⟨_, rfl⟩
  | bsrRead w =>
    obtain ⟨rfl, -, hd⟩ := fields_of_row_admits (ma := 0) 0 rfl h
    exact ⟨_, if_pos (by simpa using hd)⟩
  | qNew r g b =>
    obtain ⟨rfl, ha, hd⟩ := fields_of_row_admits (ma := BitVec.allOnes 8) 24 rfl h
    rw [BitVec.and_allOnes] at ha
    exact ⟨_, if_pos (by simp [ha, hd])⟩
  | qEnc bits value =>
    obtain ⟨rfl, -, hd⟩ := fields_of_row_admits (ma := 0) 8 rfl h
    exact ⟨_, if_pos (by simpa using hd)⟩
  | qDec bits index =>
    obtain ⟨rfl, -, hd⟩ := fields_of_row_admits (ma := 0) 8 rfl h
    exact ⟨_, if_pos (by simpa using hd)⟩
  | imgNew width height r g b =>
    obtain ⟨rfl, ha, hd⟩ := fields_of_row_admits (ma := BitVec.allOnes 8) 56 rfl h
    rw [BitVec.and_allOnes] at ha
    exact ⟨_, if_pos (by simp [ha, hd])⟩
  | bswInit | bswFin | bswPos | bsrBind | bsrPos | frmSer | frmDes | imgColors | imgPixels | imgBytes =>
    exact ⟨_, decode_mk op a d ▸ decode_of_admits_fixedRow rfl h⟩

/-- Settles O59: a word that decodes is its command's word, which that command's row admits; and each row's mask leaves
open only bits that the decoder takes as operands. -/
theorem decoderFollowsTheOpcodeTable : Obligations.DecoderFollowsTheOpcodeTable := by
  refine ⟨fun w => ⟨?row, ?decodes⟩, fun _ _ => row_admits_of_decode⟩
  case row =>
    rintro ⟨i, h⟩
    obtain ⟨j, hj, hrow⟩ := exists_mem_allRows i
    exact ⟨j, hj, hrow ▸ row_admits_of_decode h⟩
  case decodes =>
    rintro ⟨i, -, h⟩
    exact exists_decodeFields_of_admits (CmdWord.mk_fields w ▸ h)

end Sys2Proof

namespace Sys2Proof.Machine

/-! ## Illegal words -/

/-- Settles O42: an illegal word is `execIllegal`, which looks at `ABORT.set` first. -/
theorem illegalWordAborts : Obligations.IllegalWordAborts := by
  intro s w e rest hhost hd
  rw [step_command_of_decode_error hhost hd]
  exact ⟨fun ha => congrArg _ (State.unlessAborted_clear (s := s.took rest) ha),
    fun ha => congrArg _ (State.unlessAborted_set (s := s.took rest) ha)⟩

/-! ## The bits of a stream -/

/-- A read in contract of bits that are there returns the field at the cursor (41 R131). -/
theorem exec_bsrRead_of_le {w : Byte} {s : State} (ha : s.abortSet = false) (hbound : s.r.bound = true)
    (hw1 : 1 ≤ w.toNat) (hw64 : w.toNat ≤ 64) (hleft : s.r.cur + w.toNat ≤ bitlen s.r.buf) :
    exec (.bsrRead w) s = .next ({ s with r := s.r.advance w.toNat }.finishValue (s.r.field w.toNat)) := by
  have hv : violation s (.bsrRead w) = none := by
    simp [violation, hbound, Nat.not_lt.mpr hw64, show w.toNat ≠ 0 by omega]
  rw [exec_of_no_violation ha hv]
  exact congrArg _ (if_neg (Nat.not_lt.mpr hleft))

/-- Settles O7: the value returned is the reader's field, whose number, bound and bits are laws of the reader. -/
theorem bsrReadReturnsTheNextBits : Obligations.BsrReadReturnsTheNextBits := by
  intro w s ha hbound hw1 hw64 hleft
  refine ⟨s.r.field w.toNat, exec_bsrRead_of_le ha hbound hw1 hw64 hleft, s.r.field_toNat hw64, s.r.field_lt hw64,
    fun i hi => ?_⟩
  rw [s.r.getLsbD_field hw64, show s.r.cur + w.toNat - 1 - (w.toNat - 1 - i) = s.r.cur + i by omega]
  simp [show w.toNat - 1 - i < w.toNat by omega]

/-- A serialized Image fills whole bytes, from the header and the pixel data on (30_encoding R86). -/
theorem serialize_length {c : Config} {img : Image} (h : img.Wf) :
    (serialize c img).length = bytesFor (headerBits c + img.pixelDataBits) :=
  serializeWriter_cur c h ▸ (serializeWriter_wf c img).1

/-- The descriptor of a valid Image is legal (10_state R27). -/
theorem Image.Wf.legal {img : Image} (h : img.Wf) : img.q.legal = true := by
  obtain ⟨-, -, hq, -⟩ := h
  exact hq

/-- The largest Image has 65535 x 65535 pixels of 24 bits (30_encoding R86). -/
theorem Image.Wf.pixelDataBits_le {img : Image} (h : img.Wf) : img.pixelDataBits ≤ 65535 * 65535 * 24 := by
  obtain ⟨hr, hg, hb⟩ := Descriptor.legal_eq_true.mp h.legal
  have hwidth := img.width.isLt
  have hheight := img.height.isLt
  exact Nat.mul_le_mul (Nat.mul_le_mul (by omega) (by omega)) (by omega)

/-- Settles O22: the length is `serialize_length`, and the extremes are those of the pixel data. -/
theorem serializedLength : Obligations.SerializedLength := by
  intro img h
  have hlen : (serialize config img).length = (108 + img.pixelDataBits + 7) / 8 := serialize_length h
  have hmax := h.pixelDataBits_le
  refine ⟨hlen, by omega, by omega, by omega, fun hwidth hheight hq => ?_⟩
  have hbits : img.pixelDataBits = 65535 * 65535 * 24 := by simp [Image.pixelDataBits, hwidth, hheight, hq]
  omega

/-- Settles O25: the serialized bytes agree with the writer that wrote them, so each pixel stands where
`Writer.AgreesWith.of_pixels` counts it, from the end of the header on. -/
theorem serializedPixelPlacement : Obligations.SerializedPixelPlacement := by
  intro c img i p h hp
  have hagree : (serializeWriter c img).AgreesWith (serialize c img) := fun _ _ => rfl
  obtain ⟨-, hplace⟩ :=
    Writer.AgreesWith.of_pixels h.legal img.colors _ (putHeader_wf Writer.fresh_wf c img) hagree
  simpa [Writer.fresh] using hplace i p (h.colors_eq ▸ hp)

end Sys2Proof.Machine
end

section
/-! PROOFS. The bit-stream writer: its commands on an open and on a consumed writer, the closed form of a write, and the
writer and the reader as inverses (40 R110 to R116; 41 R134). -/

namespace Sys2Proof.Machine

/-! ## Runs of commands -/

theorem runAll_cons {i : Instr} {s t : State} (h : exec i s = .next t) (is : List Instr) :
    runAll (i :: is) s = runAll is t := by
  simp only [runAll, h]

theorem runAll_singleton {i : Instr} {s t : State} (h : exec i s = .next t) : runAll [i] s = some t := runAll_cons h []

theorem runAll_append {is js : List Instr} {s t : State} (h : runAll is s = some t) :
    runAll (is ++ js) s = runAll js t := by
  induction is generalizing s with
  | nil => exact Option.some.inj h ▸ rfl
  | cons i is ih =>
    cases hi : exec i s with
    | next u =>
      rw [runAll_cons hi] at h
      rw [List.cons_append, runAll_cons hi, ih h]
    | fault | refused => simp [runAll, hi] at h

/-! ## The writer's commands, one equation each -/

/-- `BSW.INIT` in either mode (40 R110). -/
theorem exec_bswInit_of_clear {s : State} (ha : s.abortSet = false) :
    exec .bswInit s = .next ({ s with w := Writer.fresh }.finish .ok) :=
  exec_of_no_violation ha rfl

/-- A write in contract appends its field (40 R111). -/
theorem exec_bswWrite_of_fits {s : State} {w : Byte} {v : U64} (ha : s.abortSet = false) (hm : s.w.mode = .opened)
    (hf : StreamField.Fits (w, v)) :
    exec (.bswWrite w v) s = .next ({ s with w := s.w.put w.toNat v }.finish .ok) := by
  obtain ⟨h1, h64, hv⟩ := hf
  refine exec_of_no_violation ha ?_
  simp [violation, hm, Nat.not_lt.mpr h64, Nat.not_le.mpr hv, Nat.ne_of_gt h1]

/-- `BSW.FIN` of an open writer hands over its buffer (40 R113). -/
theorem exec_bswFin_of_opened {s : State} (ha : s.abortSet = false) (hm : s.w.mode = .opened) :
    exec .bswFin s = .next ({ s with w := s.w.finalize }.finishBytes s.w.buf) :=
  exec_of_no_violation ha (by simp [violation, hm])

/-- `BSW.POS` of an open writer hands over its cursor (40 R115). -/
theorem exec_bswPos_of_opened {s : State} (ha : s.abortSet = false) (hm : s.w.mode = .opened) :
    exec .bswPos s = .next (s.finishValue (writerPos s.w.cur)) :=
  exec_of_no_violation ha (by simp [violation, hm])

theorem writerPos_of_lt {c : Nat} (h : c < 2 ^ 64) : writerPos c = BitVec.ofNat 64 c := if_pos h

/-- The commands that want an open writer abort on a consumed one (40 R114). -/
theorem exec_of_consumed {i : Instr} {s : State} (ha : s.abortSet = false) (hm : s.w.mode = .consumed)
    (hi : (∃ w v, i = .bswWrite w v) ∨ i = .bswFin ∨ i = .bswPos) :
    exec i s = .next (s.takeAbort .writerConsumed) := by
  refine exec_of_violation ha ?_
  obtain ⟨w, v, rfl⟩ | rfl | rfl := hi <;> exact if_pos hm

/-- `BSR.BIND` takes a copy of `IN` (41 R130). -/
theorem exec_bsrBind_of_clear {s : State} (ha : s.abortSet = false) :
    exec .bsrBind s = .next ({ s with r := Reader.bindTo s.inBuf }.finish .ok) :=
  exec_of_no_violation ha rfl

/-- `BSR.POS` of a bound reader hands over its cursor (41 R134). -/
theorem exec_bsrPos_of_bound {s : State} (ha : s.abortSet = false) (hb : s.r.bound = true) :
    exec .bsrPos s = .next (s.finishValue (readerPos s.r.cur)) :=
  exec_of_no_violation ha (by simp [violation, hb])

/-- No command but `BSW.INIT` opens a consumed writer: those that want it open abort, the serializing ones consume the
writer they leave, and the rest do not touch it (40 R114; 43 R170). -/
theorem exec_keeps_consumed {i : Instr} {s t : State} (h : exec i s = .next t) (hm : s.w.mode = .consumed)
    (hi : i ≠ .bswInit) : t.w.mode = .consumed := by
  obtain ⟨-, rfl⟩ | ⟨-, c, -, rfl⟩ | ⟨-, hv, rfl⟩ := exec_cases h
  · exact hm
  · exact hm
  · cases i with
    | bswInit => exact absurd rfl hi
    | bswWrite w v => simp [opened_of_bswWrite hv] at hm
    | bswFin | frmSer | imgBytes => rfl
    | bsrRead w => obtain ⟨-, h⟩ | h := effect_bsrRead_cases s w <;> exact h ▸ hm
    | qNew r g b => obtain ⟨-, h⟩ | h := effect_qNew_cases s r g b <;> exact h ▸ hm
    | frmDes => obtain ⟨_, -, h⟩ | ⟨_, h⟩ := effect_frmDes_cases s <;> exact h ▸ hm
    | imgNew width height r g b =>
      obtain ⟨_, -, h⟩ | ⟨_, h⟩ := effect_imgNew_cases s width height r g b <;> exact h ▸ hm
    | bswPos | bsrBind | bsrPos | qEnc | qDec | imgColors | imgPixels => exact hm

/-! ## A list of fields, written and read back -/

/-- The fields appended one after another. -/
def Writer.putFields (w : Writer) (fs : List StreamField) : Writer := fs.foldl (fun w f => w.put f.1.toNat f.2) w

@[simp] theorem Writer.putFields_nil (w : Writer) : w.putFields [] = w := rfl

@[simp] theorem Writer.putFields_cons (w : Writer) (f : StreamField) (fs : List StreamField) :
    w.putFields (f :: fs) = (w.put f.1.toNat f.2).putFields fs := rfl

@[simp] theorem fieldBits_nil : fieldBits [] = 0 := rfl

@[simp] theorem fieldBits_cons (f : StreamField) (fs : List StreamField) :
    fieldBits (f :: fs) = f.1.toNat + fieldBits fs := by
  simp [fieldBits]

theorem Writer.putFields_wf {w : Writer} (h : w.Wf) (fs : List StreamField) : (w.putFields fs).Wf := by
  induction fs generalizing w with
  | nil => exact h
  | cons f fs ih => exact ih (Writer.put_wf h f.1.toNat f.2)

@[simp] theorem Writer.putFields_cur (w : Writer) (fs : List StreamField) :
    (w.putFields fs).cur = w.cur + fieldBits fs := by
  induction fs generalizing w with
  | nil => rfl
  | cons f fs ih => rw [putFields_cons, ih, put_cur, fieldBits_cons, Nat.add_assoc]

/-- Writes in contract, run on an open writer, append their fields and leave it open (40 R111). -/
theorem runAll_bswWrites {fs : List StreamField} {s : State} (ha : s.abortSet = false) (hm : s.w.mode = .opened)
    (hfs : ∀ f ∈ fs, f.Fits) :
    ∃ t, runAll (fs.map fun f => .bswWrite f.1 f.2) s = some t ∧
      t.abortSet = false ∧ t.w.mode = .opened ∧ t.w = s.w.putFields fs := by
  induction fs generalizing s with
  | nil => exact ⟨s, rfl, ha, hm, rfl⟩
  | cons f fs ih =>
    obtain ⟨hf, hfs⟩ := List.forall_mem_cons.mp hfs
    obtain ⟨t, hrun, hta, htm, htw⟩ := ih (s := { s with w := s.w.put f.1.toNat f.2 }.finish .ok) ha hm hfs
    exact ⟨t, by rw [List.map_cons, runAll_cons (exec_bswWrite_of_fits ha hm hf), hrun], hta, htm, htw⟩

/-- The fields stand one after another in the buffer, from stream bit `c` on (30_encoding R84). -/
def FieldsStandAt (buf : List Byte) : (c : Nat) → List StreamField → Prop
  | _, [] => True
  | c, f :: fs => fieldAt buf c f.1.toNat = f.2.toNat ∧ FieldsStandAt buf (c + f.1.toNat) fs

/-- A buffer that agrees with the writer after a list of fields agrees with it before, and holds the fields (40
R112). -/
theorem Writer.AgreesWith.of_putFields {buf : List Byte} {fs : List StreamField} {w : Writer} (h : w.Wf)
    (ha : (w.putFields fs).AgreesWith buf) (hfs : ∀ f ∈ fs, f.Fits) :
    w.AgreesWith buf ∧ FieldsStandAt buf w.cur fs := by
  induction fs generalizing w with
  | nil => exact ⟨ha, trivial⟩
  | cons f fs ih =>
    obtain ⟨⟨-, -, hv⟩, hfs⟩ := List.forall_mem_cons.mp hfs
    obtain ⟨hput, hrest⟩ := ih (Writer.put_wf h f.1.toNat f.2) ha hfs
    obtain ⟨hbefore, hfield⟩ := Writer.AgreesWith.of_put h hput hv
    exact ⟨hbefore, hfield, hrest⟩

/-- A read that returns `v`, and what the reads after it return (41 R131). -/
theorem readAll_cons {w : Byte} {ws : List Byte} {v : U64} {vs : List U64} {s u e : State}
    (h : exec (.bsrRead w) s = .next (u.finishValue v)) (hrest : readAll ws (u.finishValue v) = some (vs, e)) :
    readAll (w :: ws) s = some (v :: vs, e) := by
  simp [readAll, h, hrest]

/-- Reads of the widths of fields that stand at the cursor return their values in order (41 R131). -/
theorem readAll_of_fieldsStandAt {fs : List StreamField} {s : State} (ha : s.abortSet = false)
    (hb : s.r.bound = true) (hfs : ∀ f ∈ fs, f.Fits) (hat : FieldsStandAt s.r.buf s.r.cur fs)
    (hleft : s.r.cur + fieldBits fs ≤ bitlen s.r.buf) :
    ∃ e, readAll (fs.map Prod.fst) s = some (fs.map Prod.snd, e) ∧ e.r = s.r.advance (fieldBits fs) := by
  induction fs generalizing s with
  | nil => exact ⟨s, rfl, rfl⟩
  | cons f fs ih =>
    obtain ⟨⟨h1, h64, -⟩, hfs⟩ := List.forall_mem_cons.mp hfs
    obtain ⟨hfield, hat⟩ := hat
    rw [fieldBits_cons, ← Nat.add_assoc] at hleft
    have hread := exec_bsrRead_of_le ha hb h1 h64 (by omega)
    rw [show s.r.field f.1.toNat = f.2 from BitVec.eq_of_toNat_eq ((s.r.field_toNat h64).trans hfield)] at hread
    obtain ⟨e, hrun, her⟩ := ih (s := { s with r := s.r.advance f.1.toNat }.finishValue f.2) ha hb hfs hat hleft
    exact ⟨e, readAll_cons hread hrun, by rw [her, fieldBits_cons, ← Reader.advance_advance]; rfl⟩

/-- `BSW.INIT`, writes in contract and `BSW.FIN` hand over the buffer of a fresh writer after the fields (40 R116). -/
theorem runAll_writeFields {fs : List StreamField} {s : State} (ha : s.abortSet = false) (hfs : ∀ f ∈ fs, f.Fits) :
    ∃ t, runAll ([Instr.bswInit] ++ fs.map (fun f => Instr.bswWrite f.1 f.2) ++ [Instr.bswFin]) s = some t ∧
      t.abortSet = false ∧ t.out = (Writer.fresh.putFields fs).buf := by
  obtain ⟨t, hrun, hta, htm, htw⟩ :=
    runAll_bswWrites (s := { s with w := Writer.fresh }.finish .ok) (fs := fs) ha rfl hfs
  refine ⟨{ t with w := t.w.finalize }.finishBytes t.w.buf, ?_, hta, congrArg Writer.buf htw⟩
  rw [List.append_assoc, List.singleton_append, runAll_cons (exec_bswInit_of_clear ha), runAll_append hrun]
  exact runAll_singleton (exec_bswFin_of_opened hta htm)

/-- Settles O15: the finalized buffer agrees with the writer that wrote it, so each field stands where the writes put it
(`Writer.AgreesWith.of_putFields`), and there the reads find it. -/
theorem writerThenReaderReturnsTheFields : Obligations.WriterThenReaderReturnsTheFields := by
  intro fs s ha hfs
  obtain ⟨t, hwrite, hta, hout⟩ := runAll_writeFields ha hfs
  have hwf : (Writer.fresh.putFields fs).Wf := Writer.putFields_wf Writer.fresh_wf fs
  have hcur : (Writer.fresh.putFields fs).cur = fieldBits fs := (Writer.putFields_cur _ fs).trans (Nat.zero_add _)
  have hlen : t.out.length = (fieldBits fs + 7) / 8 := hout ▸ hcur ▸ hwf.1
  have hpad : ∀ k, fieldBits fs ≤ k → sbit t.out k = false := hout ▸ hcur ▸ fun _ hk => hwf.pad hk
  obtain ⟨-, hat⟩ : _ ∧ FieldsStandAt t.out 0 fs :=
    Writer.AgreesWith.of_putFields Writer.fresh_wf (fun _ _ => hout ▸ rfl) hfs
  obtain ⟨e, hread, her⟩ := readAll_of_fieldsStandAt
    (s := { t with inBuf := t.out, r := Reader.bindTo t.out }.finish .ok) hta rfl hfs hat
    (show 0 + fieldBits fs ≤ 8 * t.out.length by omega)
  have hebuf : e.r.buf = t.out := congrArg Reader.buf her
  have hecur : e.r.cur = fieldBits fs := (congrArg Reader.cur her).trans (Nat.zero_add _)
  exact ⟨t, _, hwrite, runAll_singleton (exec_bsrBind_of_clear hta), e, hread, hebuf, hecur, by omega, by omega,
    fun k hk _ => hpad k (hecur ▸ hk)⟩

/-! ## The closed form of a write -/

/-- A byte is there in both buffers or in neither, with the same bits: it is the same byte. -/
theorem getElem?_eq_of_sbit {buf buf' : List Byte} {a : Nat} (hlen : a < buf.length ↔ a < buf'.length)
    (hbits : ∀ k, k / 8 = a → sbit buf k = sbit buf' k) : buf[a]? = buf'[a]? := by
  by_cases ha : a < buf.length
  · have ha' := hlen.mp ha
    rw [List.getElem?_eq_getElem ha, List.getElem?_eq_getElem ha']
    congr 1
    apply BitVec.eq_of_getLsbD_eq
    intro i hi
    have hbit := hbits (8 * a + (7 - i)) (by omega)
    rw [sbit, sbit, show (8 * a + (7 - i)) / 8 = a by omega, show 7 - (8 * a + (7 - i)) % 8 = i by omega] at hbit
    simpa [ha, ha'] using hbit
  · rw [List.getElem?_eq_none (Nat.le_of_not_lt ha), List.getElem?_eq_none (Nat.le_of_not_lt (mt hlen.mpr ha))]

/-- A write changes no byte outside those its field lies in (40 R112). -/
theorem Writer.byteAt_put {w : Writer} (h : w.Wf) {n : Nat} (hn : 1 ≤ n) (v : U64) {a : Nat}
    (ha : ¬ (w.cur / 8 ≤ a ∧ a ≤ (w.cur + n - 1) / 8)) : (w.put n v).byteAt a = w.byteAt a := by
  obtain ⟨⟨hlen', -⟩, -, -, hbits⟩ := Writer.put_spec h n v
  have hlen := h.1
  rw [put_cur] at hlen'
  apply getElem?_eq_of_sbit
  · unfold bytesFor at hlen hlen'
    omega
  · intro k hk
    rw [hbits, if_neg (by omega)]

/-- A value of `n` bits has no bit from `n` on. -/
theorem getLsbD_eq_false_of_lt {v : U64} {n i : Nat} (hv : v.toNat < 2 ^ n) (hi : n ≤ i) : v.getLsbD i = false :=
  Nat.testBit_lt_two_pow (Nat.lt_of_lt_of_le hv (Nat.pow_le_pow_right (by omega) hi))

/-- The bits of a value with another of `n` bits put below it. -/
theorem getLsbD_shiftLeft_or {v1 v2 : U64} {n i : Nat} (hv2 : v2.toNat < 2 ^ n) (hi : i < 64) :
    ((v1 <<< n) ||| v2).getLsbD i = if i < n then v2.getLsbD i else v1.getLsbD (i - n) := by
  by_cases h : i < n
  · simp [h]
  · rw [BitVec.getLsbD_or, BitVec.getLsbD_shiftLeft, getLsbD_eq_false_of_lt hv2 (Nat.le_of_not_lt h)]
    simp [h, hi]

theorem toNat_shiftLeft_or_lt {v1 v2 : U64} {m n : Nat} (hv1 : v1.toNat < 2 ^ m) (hv2 : v2.toNat < 2 ^ n) :
    ((v1 <<< n) ||| v2).toNat < 2 ^ (m + n) := by
  apply Nat.lt_pow_two_of_testBit
  intro i hi
  by_cases h64 : i < 64
  · exact (getLsbD_shiftLeft_or hv2 h64).trans
      ((if_neg (by omega)).trans (getLsbD_eq_false_of_lt hv1 (by omega)))
  · exact BitVec.getLsbD_of_ge _ _ (by omega)

/-- Two fields written one after another make the buffer of one field, the second value below the first (40 R112). -/
theorem Writer.put_put_buf {w : Writer} (h : w.Wf) {m n : Nat} {v1 v2 : U64} (hmn : m + n ≤ 64)
    (hv2 : v2.toNat < 2 ^ n) :
    ((w.put m v1).put n v2).buf = (w.put (m + n) ((v1 <<< n) ||| v2)).buf := by
  obtain ⟨hwf1, -, -, hbits1⟩ := Writer.put_spec h m v1
  obtain ⟨⟨hlen2, -⟩, -, -, hbits2⟩ := Writer.put_spec hwf1 n v2
  obtain ⟨⟨hlen, -⟩, -, -, hbits⟩ := Writer.put_spec h (m + n) ((v1 <<< n) ||| v2)
  simp only [put_cur, Nat.add_assoc] at hlen2 hlen hbits2
  refine List.ext_getElem? fun a => getElem?_eq_of_sbit (by rw [hlen2, hlen]) fun k _ => ?_
  rw [hbits2, hbits1, hbits]
  by_cases hk : w.cur ≤ k ∧ k < w.cur + (m + n)
  · rw [if_pos hk, getLsbD_shiftLeft_or hv2 (by omega)]
    by_cases hsecond : w.cur + m ≤ k
    · rw [if_pos (by omega), if_pos (by omega)]
      congr 1; omega
    · rw [if_neg (by omega), if_pos (by omega), if_neg (by omega)]
      congr 1; omega
  · rw [if_neg hk, if_neg (by omega), if_neg (by omega)]

/-- Settles O2: the closed form is `Writer.put_spec` with the bytes of `Writer.byteAt_put`, the concatenation law is
`Writer.put_put_buf`. -/
theorem bswWriteClosedForm : Obligations.BswWriteClosedForm := by
  refine ⟨?closed, ?concat⟩
  case closed =>
    intro w v s ha hwf hm h1 h64 hv
    obtain ⟨hwf', -, -, hbits⟩ := Writer.put_spec hwf w.toNat v
    refine ⟨_, exec_bswWrite_of_fits ha hm ⟨h1, h64, hv⟩, ?frame, hwf'.1, fun k hk => ?before,
      fun k hk hk' => ?field, fun k hk _ => hwf'.pad hk, fun a => Writer.byteAt_put hwf h1 v⟩
    case frame => simp [State.finish, Writer.put, hm]
    case before => exact (hbits k).trans (if_neg (by omega))
    case field => exact (hbits k).trans (if_pos ⟨hk, hk'⟩)
  case concat =>
    intro w1 w2 v1 v2 s ha hwf hm h1 h2 h64 hv1 hv2
    have hw : (w1 + w2).toNat = w1.toNat + w2.toNat := by rw [BitVec.toNat_add]; omega
    have hfits1 : StreamField.Fits (w1, v1) := ⟨h1, Nat.le_trans (Nat.le_add_right _ _) h64, hv1⟩
    have hfits2 : StreamField.Fits (w2, v2) := ⟨h2, Nat.le_trans (Nat.le_add_left _ _) h64, hv2⟩
    have hfits : StreamField.Fits (w1 + w2, (v1 <<< w2.toNat) ||| v2) := by
      simp only [StreamField.Fits, hw]
      exact ⟨by omega, h64, toNat_shiftLeft_or_lt hv1 hv2⟩
    obtain ⟨t, hrun, -, -, htw⟩ := runAll_bswWrites (fs := [(w1, v1), (w2, v2)]) ha hm
      (List.forall_mem_cons.mpr ⟨hfits1, List.forall_mem_singleton.mpr hfits2⟩)
    refine ⟨t, _, hrun, runAll_singleton (exec_bswWrite_of_fits ha hm hfits), ?_⟩
    rw [htw, State.finish_w]
    simpa [hw] using Writer.put_put_buf hwf h64 hv2

/-! ## Open, consumed, and the cursor -/

/-- Settles O4: only `BSW.INIT` reopens a consumed writer (`exec_keeps_consumed`), and the three commands that want it
open abort (`exec_of_consumed`). -/
theorem consumedWriterStaysConsumed : Obligations.ConsumedWriterStaysConsumed := by
  refine ⟨fun s t ha hm h => ?_, fun i s t hm hi h => exec_keeps_consumed h hm hi,
    fun i s ha hm hi => exec_of_consumed ha hm hi, fun s ha => ⟨_, exec_bswInit_of_clear ha, rfl⟩⟩
  rw [exec_bswFin_of_opened ha hm] at h
  exact Host.Outcome.next.inj h ▸ rfl

/-- Settles O1: the effect of `BSW.INIT` is one equation; in the example it stands between a write and `BSW.FIN`, which
then finds an empty buffer. -/
theorem bswInitMakesANewWriter : Obligations.BswInitMakesANewWriter := by
  refine ⟨decode_eq_ok_iff.mpr (by decide), fun s ha => exec_bswInit_of_clear ha, fun s ha hm => ?_⟩
  have hwrite := exec_bswWrite_of_fits (w := 3) (v := 5) ha hm (by decide)
  have hinit := exec_bswInit_of_clear (s := { s with w := s.w.put 3 5 }.finish .ok) ha
  have hfin := exec_bswFin_of_opened (s := { s with w := Writer.fresh }.finish .ok) ha rfl
  exact ⟨_, (runAll_cons hwrite _).trans ((runAll_cons hinit _).trans (runAll_singleton hfin)), rfl, rfl⟩

/-- Settles O3: the effect of `BSW.FIN` is one equation; length and padding are the writer's invariant. -/
theorem bswFinHandsOverTheBytes : Obligations.BswFinHandsOverTheBytes := by
  refine ⟨decode_eq_ok_iff.mpr (by decide), fun s ha hwf hm => ?_,
    fun s ha hm => exec_of_consumed ha hm (.inr (.inl rfl))⟩
  have hlen : s.w.buf.length = (s.w.cur + 7) / 8 := hwf.1
  exact ⟨exec_bswFin_of_opened ha hm, hlen, by omega, fun k hk _ => hwf.pad hk⟩

/-- Settles O5: the effect of `BSW.POS` is one equation; in the example the cursor counts the bits of three fields. -/
theorem bswPosReturnsTheCursor : Obligations.BswPosReturnsTheCursor := by
  refine ⟨decode_eq_ok_iff.mpr (by decide), fun s ha hm hcur => ?cursor,
    fun s ha hm => exec_of_consumed ha hm (.inr (.inr rfl)), ?run⟩
  case cursor =>
    rw [exec_bswPos_of_opened ha hm, writerPos_of_lt hcur]
    rfl
  case run =>
    obtain ⟨t, hrun, hta, htm, htw⟩ :=
      runAll_bswWrites (fs := [(3, 5), (5, 6), (12, 0xABC)]) (s := State.reset) rfl rfl
        (by simp [StreamField.Fits])
    have hcur : t.w.cur = 20 := by rw [htw, Writer.putFields_cur]; rfl
    refine ⟨_, (runAll_append hrun).trans (runAll_singleton (exec_bswPos_of_opened hta htm)), ?_⟩
    rw [State.finishValue_reply, hcur, writerPos_of_lt (by norm_num)]
    rfl

/-- Settles O13: neither cursor read looks at its cursor before it answers. -/
theorem posCompletesAtEveryCursor : Obligations.PosCompletesAtEveryCursor := fun _ ha =>
  ⟨fun hm => ⟨_, exec_bswPos_of_opened ha hm⟩, fun hb => ⟨_, exec_bsrPos_of_bound ha hb⟩⟩

end Sys2Proof.Machine
end

section
/-! PROOFS. The bit-stream reader: the four ways a read can end, what two reads make of one field, and the reader's
other commands (41 R130 to R135; 30_encoding R84). -/

namespace Sys2Proof.Machine

/-! ## The ways a read ends (41 R133) -/

section Reads
variable {s : State} {w : Byte}

/-- A read in contract: a buffer is bound and the width is 1 to 64. -/
theorem violation_bsrRead_eq_none_iff :
    violation s (.bsrRead w) = none ↔ s.r.bound = true ∧ 1 ≤ w.toNat ∧ w.toNat ≤ 64 := by
  rw [violation]
  split_ifs with hunbound hwidth
  · simp [hunbound]
  · exact iff_of_false (by simp) (by omega)
  · exact iff_of_true rfl ⟨by simpa using hunbound, by omega, by omega⟩

theorem violation_bsrRead_of_unbound (hb : s.r.bound = false) : violation s (.bsrRead w) = some .readerUnbound :=
  if_pos hb

theorem violation_bsrRead_of_badWidth (hb : s.r.bound = true) (hw : w.toNat < 1 ∨ 64 < w.toNat) :
    violation s (.bsrRead w) = some .badWidth :=
  (if_neg (by simp [hb])).trans (if_pos hw)

/-- The contract of a read speaks of the reader only (41 R135). -/
theorem violation_bsrRead_congr {u : State} (hr : s.r = u.r) :
    violation s (.bsrRead w) = violation u (.bsrRead w) := by
  simp only [violation, hr]

theorem effect_bsrRead_of_le (hleft : s.r.cur + w.toNat ≤ bitlen s.r.buf) :
    effect s (.bsrRead w) = { s with r := s.r.advance w.toNat }.finishValue (s.r.field w.toNat) :=
  if_neg (Nat.not_lt.mpr hleft)

theorem effect_bsrRead_of_short (hshort : bitlen s.r.buf < s.r.cur + w.toNat) :
    effect s (.bsrRead w) = s.failWith .truncatedData :=
  if_pos hshort

/-- A read in contract of more bits than remain fails and consumes nothing (41 R132). -/
theorem exec_bsrRead_of_short (ha : s.abortSet = false) (hb : s.r.bound = true) (h1 : 1 ≤ w.toNat)
    (h64 : w.toNat ≤ 64) (hshort : bitlen s.r.buf < s.r.cur + w.toNat) :
    exec (.bsrRead w) s = .next (s.failWith .truncatedData) := by
  rw [exec_of_no_violation ha (violation_bsrRead_eq_none_iff.mpr ⟨hb, h1, h64⟩), effect_bsrRead_of_short hshort]

/-- A read of width 0 or above 64 aborts, however few bits remain (41 R133). -/
theorem exec_bsrRead_of_badWidth (ha : s.abortSet = false) (hb : s.r.bound = true)
    (hw : w.toNat < 1 ∨ 64 < w.toNat) : exec (.bsrRead w) s = .next (s.takeAbort .badWidth) :=
  exec_of_violation ha (violation_bsrRead_of_badWidth hb hw)

end Reads

/-- Settles O10: the first two checks abort by their own equations, and among bound readers the width is judged before
the bits that remain. -/
theorem bsrReadChecksInOrder : Obligations.BsrReadChecksInOrder := by
  refine ⟨fun w s ha => exec_aborted _ ha,
    fun w s ha hb => exec_of_violation ha (violation_bsrRead_of_unbound hb),
    fun w s ha hb hw => exec_bsrRead_of_badWidth ha hb hw,
    fun w s ha hb h1 h64 hshort => ⟨_, exec_bsrRead_of_short ha hb h1 h64 hshort, rfl⟩,
    fun s ha hb _ => ?empty⟩
  case empty =>
    exact ⟨_, _, exec_bsrRead_of_badWidth ha hb (.inl (by decide)),
      exec_bsrRead_of_badWidth ha hb (.inr (by decide)), rfl, rfl⟩

/-- Settles O9: a failed read writes `RES.valid`, `ST` and the reply only, and a later read that fits reads none of
these and writes each anew. -/
theorem bsrReadPastTheEndFails : Obligations.BsrReadPastTheEndFails := by
  intro w s ha hb h1 h64 hshort
  have hfail := exec_bsrRead_of_short ha hb h1 h64 hshort
  refine ⟨hfail, rfl, fun w' h1' h64' hleft => ?later⟩
  case later =>
    have hretry := exec_bsrRead_of_le (s := s.failWith .truncatedData) ha hb h1' h64' hleft
    exact ⟨_, (runAll_cons hfail _).trans (runAll_singleton hretry), exec_bsrRead_of_le ha hb h1' h64' hleft,
      State.finishValue_succeeding _ _⟩

/-- Settles O11: contract and effect of a read are the same in two states with one reader; in contract it fails exactly
when too few bits remain. -/
theorem bsrReadDependsOnReaderOnly : Obligations.BsrReadDependsOnReaderOnly := by
  refine ⟨fun w s u ha hu hr => ?same, fun w s t ha hb hwf h1 h64 h => ?succeeds⟩
  case same =>
    cases hv : violation s (.bsrRead w) with
    | some c =>
      exact ⟨_, _, exec_of_violation ha hv, exec_of_violation hu (violation_bsrRead_congr hr ▸ hv), rfl, hr, rfl,
        Bool.noConfusion⟩
    | none =>
      refine ⟨_, _, exec_of_no_violation ha hv, exec_of_no_violation hu (violation_bsrRead_congr hr ▸ hv), ?_⟩
      by_cases hleft : s.r.cur + w.toNat ≤ bitlen s.r.buf
      · simp [effect_bsrRead_of_le hleft, effect_bsrRead_of_le (hr ▸ hleft), hr]
      · have hshort := Nat.lt_of_not_le hleft
        simp [effect_bsrRead_of_short hshort, effect_bsrRead_of_short (hr ▸ hshort), hr]
  case succeeds =>
    have hcur : s.r.cur ≤ 8 * s.r.buf.length := hwf
    by_cases hleft : s.r.cur + w.toNat ≤ 8 * s.r.buf.length
    · rw [exec_bsrRead_of_le ha hb h1 h64 hleft] at h
      obtain rfl := Host.Outcome.next.inj h
      exact iff_of_true (State.finishValue_succeeding _ _) (by omega)
    · rw [exec_bsrRead_of_short ha hb h1 h64 (Nat.lt_of_not_le hleft)] at h
      obtain rfl := Host.Outcome.next.inj h
      exact iff_of_false (State.failWith_not_succeeding _ _) (by omega)

/-! ## Two reads of one field -/

/-- A field is its first bits above its last ones (30_encoding R84). -/
theorem fieldAt_add (buf : List Byte) (c m n : Nat) :
    fieldAt buf c (m + n) = fieldAt buf c m * 2 ^ n + fieldAt buf (c + m) n := by
  induction n with
  | zero => simp [fieldAt_zero]
  | succ n ih =>
    rw [← Nat.add_assoc, fieldAt_succ, fieldAt_succ, ih, Nat.add_assoc c m n, pow_succ]
    ring

/-- The high bits of a reader's next field are its field of that width (41 R131 corner case 4). -/
theorem Reader.field_div (r : Reader) {m n : Nat} (h : m + n ≤ 64) :
    (r.field m).toNat = (r.field (m + n)).toNat / 2 ^ n := by
  rw [r.field_toNat h, r.field_toNat (by omega), fieldAt_add, Nat.add_comm (_ * _),
    Nat.add_mul_div_right _ _ (Nat.two_pow_pos n), Nat.div_eq_of_lt (fieldAt_lt _ _ _), Nat.zero_add]

/-- The low bits of a reader's next field are the field it finds past the high ones (41 R131 corner case 4). -/
theorem Reader.field_mod (r : Reader) {m n : Nat} (h : m + n ≤ 64) :
    ((r.advance m).field n).toNat = (r.field (m + n)).toNat % 2 ^ n := by
  rw [r.field_toNat h, (r.advance m).field_toNat (by omega), Reader.advance_buf, Reader.advance_cur, fieldAt_add,
    Nat.mul_add_mod_of_lt (fieldAt_lt _ _ _)]

/-- Settles O8: each read returns the reader's field, and `Reader.field_div` and `Reader.field_mod` split the wide
one. -/
theorem bsrReadSplitsAField : Obligations.BsrReadSplitsAField := by
  intro w1 w2 s ha hb h1 h2 h64 hleft
  have hw : (w1 + w2).toNat = w1.toNat + w2.toNat := by rw [BitVec.toNat_add]; omega
  have hfirst := exec_bsrRead_of_le ha hb h1 (by omega) (show s.r.cur + w1.toNat ≤ 8 * s.r.buf.length by omega)
  have hsecond := exec_bsrRead_of_le
    (s := { s with r := s.r.advance w1.toNat }.finishValue (s.r.field w1.toNat)) ha hb h2 (by omega) hleft
  have hwhole := exec_bsrRead_of_le (w := w1 + w2) ha hb (by omega) (by omega)
    (show s.r.cur + (w1 + w2).toNat ≤ 8 * s.r.buf.length by omega)
  rw [hw] at hwhole
  exact ⟨_, _, _, _, _, readAll_cons hfirst (readAll_cons hsecond rfl), readAll_cons hwhole rfl,
    s.r.field_div h64, s.r.field_mod h64, s.r.advance_advance _ _⟩

/-! ## The bind and the cursor -/

/-- No command but a bind, alone or in `FRM.DES`, moves the cursor back (41 R130). -/
theorem exec_cur_le {i : Instr} {s t : State} (h : exec i s = .next t) (hbind : i ≠ .bsrBind) (hdes : i ≠ .frmDes) :
    s.r.cur ≤ t.r.cur := by
  obtain hr | ⟨hi, -⟩ | ⟨hi, -⟩ | ⟨w, -, -, hr, -⟩ := exec_reader_cases h
  · exact hr ▸ Nat.le_refl _
  · exact absurd hi hbind
  · exact absurd hi hdes
  · exact hr ▸ Nat.le_add_right _ _

/-- Settles O6: the effect of `BSR.BIND` is one equation; an empty buffer is too short for every legal width. -/
theorem bsrBindCopiesTheInput : Obligations.BsrBindCopiesTheInput := by
  refine ⟨decode_eq_ok_iff.mpr (by decide), fun s ha => exec_bsrBind_of_clear ha, fun w s ha hin h1 h64 => ?empty,
    fun i s t hbind hdes h => exec_cur_le h hbind hdes⟩
  case empty =>
    have hshort : bitlen s.inBuf < 0 + w.toNat := by rw [hin, bitlen, List.length_nil]; omega
    have hread := exec_bsrRead_of_short (s := { s with r := Reader.bindTo s.inBuf }.finish .ok) ha rfl h1 h64 hshort
    exact ⟨_, (runAll_cons (exec_bsrBind_of_clear ha) _).trans (runAll_singleton hread), rfl⟩

/-- Reads in contract of bits that are there, run on a bound reader, move its cursor by their widths (41 R131). -/
theorem runAll_bsrReads {ws : List Byte} {s : State} (ha : s.abortSet = false) (hb : s.r.bound = true)
    (hws : ∀ w ∈ ws, 1 ≤ w.toNat ∧ w.toNat ≤ 64)
    (hleft : s.r.cur + (ws.map BitVec.toNat).sum ≤ bitlen s.r.buf) :
    ∃ t, runAll (ws.map .bsrRead) s = some t ∧
      t.abortSet = false ∧ t.r = s.r.advance (ws.map BitVec.toNat).sum := by
  induction ws generalizing s with
  | nil => exact ⟨s, rfl, ha, rfl⟩
  | cons w ws ih =>
    obtain ⟨⟨h1, h64⟩, hws⟩ := List.forall_mem_cons.mp hws
    rw [List.map_cons, List.sum_cons, ← Nat.add_assoc] at hleft
    obtain ⟨t, hrun, hta, htr⟩ :=
      ih (s := { s with r := s.r.advance w.toNat }.finishValue (s.r.field w.toNat)) ha hb hws hleft
    refine ⟨t, ?_, hta, htr.trans (s.r.advance_advance _ _)⟩
    rw [List.map_cons, runAll_cons (exec_bsrRead_of_le ha hb h1 h64 (by omega)), hrun]

theorem readerPos_of_lt {c : Nat} (h : c < 2 ^ 64) : readerPos c = BitVec.ofNat 64 c := if_pos h

/-- Settles O12: the effect of `BSR.POS` is one equation; in the example the cursor counts the bits of three reads. -/
theorem bsrPosReturnsTheCursor : Obligations.BsrPosReturnsTheCursor := by
  refine ⟨decode_eq_ok_iff.mpr (by decide), fun s ha hb hcur => ?cursor,
    fun s ha hb => exec_of_violation ha (if_pos hb), ?run⟩
  case cursor =>
    rw [exec_bsrPos_of_bound ha hb, readerPos_of_lt hcur]
    rfl
  case run =>
    have hbind := exec_bsrBind_of_clear (s := { State.reset with inBuf := [0xA6, 0xAB, 0xC0] }) rfl
    obtain ⟨t, hrun, hta, htr⟩ := runAll_bsrReads (ws := [3, 5, 12])
      (s := { State.reset with inBuf := [0xA6, 0xAB, 0xC0], r := Reader.bindTo [0xA6, 0xAB, 0xC0] }.finish .ok)
      rfl rfl (by decide) (by decide)
    have hpos := exec_bsrPos_of_bound hta (by rw [htr]; rfl)
    refine ⟨_, (runAll_cons hbind _).trans ((runAll_append hrun).trans (runAll_singleton hpos)), ?_⟩
    rw [State.finishValue_reply, htr, readerPos_of_lt (by decide)]
    rfl

end Sys2Proof.Machine
end

section
/-! PROOFS. The quantizer: its two functions as arithmetic, the commands that call them, and the independence of every
command from the descriptor registers (42 R150 to R157). -/

namespace Sys2Proof

/-! ## The words -/

/-- The word of `Q.ENC` or `Q.DEC` written flat is the word of its fields (30_encoding R90, R93). -/
theorem append_byteField_eq_mk (op a x : Byte) : (op ++ a ++ 0#56 ++ x : CmdWord) = CmdWord.mk op a (0#56 ++ x) :=
  BitVec.append_assoc

/-- The word of `Q.NEW` written flat is the word of its fields (30_encoding R90, R92). -/
theorem append_descriptorField_eq_mk (op a r g b : Byte) :
    (op ++ a ++ 0#40 ++ r ++ g ++ b : CmdWord) = CmdWord.mk op a (0#40 ++ r ++ g ++ b) := by
  have h1 : (op ++ a ++ 0#40 ++ r : BitVec 64) = (op ++ a : BitVec 16) ++ (0#40 ++ r : BitVec 48) := BitVec.append_assoc
  have h2 : ((op ++ a : BitVec 16) ++ (0#40 ++ r : BitVec 48) ++ g : BitVec 72) =
      (op ++ a : BitVec 16) ++ (0#40 ++ r ++ g : BitVec 56) := BitVec.append_assoc
  rw [h1, h2]
  exact BitVec.append_assoc

end Sys2Proof

namespace Sys2Proof.Machine

/-! ## The two functions (42 R151, R152) -/

/-- The index is a quotient, at width 0 too: every byte is below `2^8` (42 R151). -/
theorem enc_toNat (value : Byte) (bits : Nat) : (enc value bits).toNat = value.toNat / 2 ^ (8 - bits) := by
  unfold enc
  split
  next h => rw [h]; exact (Nat.div_eq_of_lt value.isLt).symm
  next => rw [BitVec.toNat_ushiftRight, Nat.shiftRight_eq_div_pow]

/-- Between 1 and 7 bits the decoded value is the middle of the interval of its index (42 R152). -/
theorem dec_toNat (c : Config) {index : Byte} {bits : Nat} (h1 : 1 ≤ bits) (h7 : bits ≤ 7)
    (hi : index.toNat < 2 ^ bits) :
    (dec c index bits).toNat = 2 ^ (8 - bits) * index.toNat + 2 ^ (7 - bits) := by
  have hhigh : index.toNat <<< (8 - bits) < 2 ^ 8 := by
    calc index.toNat <<< (8 - bits) = index.toNat * 2 ^ (8 - bits) := Nat.shiftLeft_eq _ _
      _ < 2 ^ bits * 2 ^ (8 - bits) := Nat.mul_lt_mul_of_pos_right hi (Nat.two_pow_pos _)
      _ = 2 ^ 8 := by rw [← pow_add, show bits + (8 - bits) = 8 by omega]
  have hlow : 2 ^ (7 - bits) < 2 ^ (8 - bits) := Nat.pow_lt_pow_right (by decide) (by omega)
  have hbyte : 2 ^ (7 - bits) < 2 ^ 8 := Nat.pow_lt_pow_right (by decide) (by omega)
  rw [dec, if_neg (by omega), if_neg (by omega), BitVec.toNat_or, BitVec.toNat_shiftLeft, BitVec.natCast_eq_ofNat,
    BitVec.toNat_ofNat, Nat.mod_eq_of_lt hhigh, Nat.one_shiftLeft, Nat.mod_eq_of_lt hbyte,
    ← Nat.shiftLeft_add_eq_or_of_lt hlow, Nat.shiftLeft_eq, Nat.mul_comm]

/-- At every legal width the decoded value lies in the interval of its index (42 R153). -/
theorem dec_mem_interval {index : Byte} {bits : Nat} (hb : bits ≤ 8) (hi : index.toNat < 2 ^ bits) :
    2 ^ (8 - bits) * index.toNat ≤ (dec config index bits).toNat ∧
      (dec config index bits).toNat < 2 ^ (8 - bits) * index.toNat + 2 ^ (8 - bits) := by
  obtain rfl | rfl | ⟨h1, h7⟩ : bits = 0 ∨ bits = 8 ∨ 1 ≤ bits ∧ bits ≤ 7 := by omega
  · obtain rfl : index = 0 := BitVec.eq_of_toNat_eq (Nat.lt_one_iff.mp hi)
    decide
  · simp [dec]
  · have hlow : 2 ^ (7 - bits) < 2 ^ (8 - bits) := Nat.pow_lt_pow_right (by decide) (by omega)
    rw [dec_toNat config h1 h7 hi]
    exact ⟨Nat.le_add_right _ _, Nat.add_lt_add_left hlow _⟩

/-- The index of a decoded value is the index it was decoded from (42 R154). -/
theorem enc_dec {index : Byte} {bits : Nat} (hb : bits ≤ 8) (hi : index.toNat < 2 ^ bits) :
    enc (dec config index bits) bits = index := by
  obtain ⟨hlow, hhigh⟩ := dec_mem_interval hb hi
  apply BitVec.eq_of_toNat_eq
  rw [enc_toNat]
  exact Nat.div_eq_of_lt_le (by rwa [Nat.mul_comm]) (by rwa [Nat.mul_comm, Nat.mul_succ])

/-- Settles O20: the value is `2^(8-b)` times its index plus a remainder, the decoded value that product plus `2^(7-b)`,
so the error is the distance of the remainder from `2^(7-b)`. -/
theorem qReconstructionErrorIsBounded : Obligations.QReconstructionErrorIsBounded := by
  refine ⟨fun v => ?lossless, fun b v h1 h7 => ?lossy, fun v => ?constant, by decide⟩
  case lossless => simp [enc, dec]
  case lossy =>
    have hdec := dec_toNat config h1 h7 (enc_lt v b (by omega))
    rw [enc_toNat] at hdec
    have hsplit := Nat.div_add_mod v.toNat (2 ^ (8 - b))
    have hrem : v.toNat % 2 ^ (8 - b) < 2 ^ (8 - b) := Nat.mod_lt _ (Nat.two_pow_pos _)
    have hhalf : 2 ^ (8 - b) = 2 * 2 ^ (7 - b) := by rw [← pow_succ', show 7 - b + 1 = 8 - b by omega]
    omega
  case constant =>
    have hv := v.isLt
    have hdec : (dec config (enc v 0) 0).toNat = 127 := rfl
    omega

/-! ## The commands, one equation each -/

section Commands
variable {s : State} {bits : Byte}

/-- `Q.NEW` of legal widths sets the descriptor (42 R150). -/
theorem exec_qNew_of_legal {r g b : Byte} (ha : s.abortSet = false) (hq : channelWidthsLegal r g b = true) :
    exec (.qNew r g b) s = .next ({ s with q := descriptorOf r g b, qValid := true }.finish .ok) := by
  rw [exec_of_no_violation ha rfl, effect, if_pos hq]

/-- `Q.NEW` with a width above 8 fails (42 R150). -/
theorem exec_qNew_of_illegal {r g b : Byte} (ha : s.abortSet = false) (hq : ¬ channelWidthsLegal r g b = true) :
    exec (.qNew r g b) s = .next (s.failWith .invalidQuantization) := by
  rw [exec_of_no_violation ha rfl, effect, if_neg hq]

/-- `Q.ENC` of a legal width hands over the index (42 R151). -/
theorem exec_qEnc_of_le (value : Byte) (ha : s.abortSet = false) (hb : bits.toNat ≤ 8) :
    exec (.qEnc bits value) s = .next (s.finishValue ((enc value bits.toNat).setWidth 64)) :=
  exec_of_no_violation ha (if_neg (Nat.not_lt.mpr hb))

/-- `Q.DEC` of an index that fits a legal width hands over the decoded value (42 R152). -/
theorem exec_qDec_of_fits {index : Byte} (ha : s.abortSet = false) (hb : bits.toNat ≤ 8)
    (hi : index.toNat < 2 ^ bits.toNat) :
    exec (.qDec bits index) s = .next (s.finishValue ((dec config index bits.toNat).setWidth 64)) :=
  exec_of_no_violation ha ((if_neg (Nat.not_lt.mpr hb)).trans (if_neg (Nat.not_le.mpr hi)))

end Commands

/-- A byte handed over in `RES` and taken back as an operand is that byte. -/
theorem setWidth_setWidth_64_8 (x : Byte) : (x.setWidth 64 : U64).setWidth 8 = x := by
  rw [BitVec.setWidth_setWidth_of_le _ (by decide), BitVec.setWidth_eq]

/-- Settles O16: the two ends of `Q.NEW`, by whether `channelWidthsLegal` holds of its operands. -/
theorem qNewSetsOrRefuses : Obligations.QNewSetsOrRefuses := by
  refine ⟨fun r g b => decode_eq_ok_iff.mpr (append_descriptorField_eq_mk 0x30 0 r g b).symm,
    fun r g b s ha => ⟨fun hr hg hb => ?sets, fun habove => ⟨?refuses, rfl⟩⟩⟩
  case sets =>
    have hq : channelWidthsLegal r g b = true := channelWidthsLegal_eq_true.mpr ⟨hr, hg, hb⟩
    exact ⟨_, exec_qNew_of_legal ha hq, rfl, descriptorOf_toNat hq⟩
  case refuses =>
    exact exec_qNew_of_illegal ha (by rw [channelWidthsLegal_eq_true]; omega)

/-- Settles O17: the effect of `Q.ENC` is one equation, and its index a quotient (`enc_toNat`). -/
theorem qEncReturnsTheTopBits : Obligations.QEncReturnsTheTopBits := by
  refine ⟨fun bits value => decode_eq_ok_iff.mpr (append_byteField_eq_mk 0x31 bits value).symm,
    fun bits value s ha hb => ⟨_, exec_qEnc_of_le value ha hb, ?_⟩,
    fun bits value s ha hb => exec_of_violation ha (if_pos hb)⟩
  rw [toNat_setWidth_64_8]
  refine ⟨enc_lt value _ hb, fun h0 => by rw [enc, if_pos h0]; rfl, fun _ => ⟨enc_toNat value _, ?_⟩⟩
  have hstep : 256 / 2 ^ bits.toNat = 2 ^ (8 - bits.toNat) := Nat.pow_div (x := 2) (m := 8) hb (by decide)
  rw [hstep, enc_toNat]

/-- Settles O18: the effect of `Q.DEC` is one equation, and its value is `dec`'s, branch by branch. -/
theorem qDecReturnsTheMidpoint : Obligations.QDecReturnsTheMidpoint := by
  refine ⟨fun bits index => decode_eq_ok_iff.mpr (append_byteField_eq_mk 0x32 bits index).symm,
    fun bits index s ha hb hi => ⟨_, exec_qDec_of_fits ha hb hi, ?_⟩,
    fun bits index s ha hb => exec_of_violation ha (if_pos hb),
    fun bits index s ha hb hi => exec_of_violation ha ((if_neg (Nat.not_lt.mpr hb)).trans (if_pos hi))⟩
  rw [toNat_setWidth_64_8]
  exact ⟨fun h0 => by rw [h0]; rfl, fun h1 h7 => dec_toNat config h1 h7 hi, fun h8 => by rw [h8]; rfl,
    dec_mem_interval hb hi⟩

/-- Settles O19: the index fits its width (`enc_lt`), so the decode succeeds, and `enc_dec` gives the index back. -/
theorem qReencodeIsIdempotent : Obligations.QReencodeIsIdempotent := by
  intro bits v s ha hb
  have hi : (enc v bits.toNat).toNat < 2 ^ bits.toNat := enc_lt v _ hb
  refine ⟨_, _, _, exec_qEnc_of_le v ha hb, exec_qDec_of_fits ha hb ?fits, exec_qEnc_of_le _ ha hb,
    State.finishValue_succeeding _ _, State.finishValue_succeeding _ _, State.finishValue_succeeding _ _, ?again⟩
  case fits =>
    rw [State.finishValue_res, setWidth_setWidth_64_8]
    exact hi
  case again => simp only [State.finishValue_res, setWidth_setWidth_64_8, enc_dec hb hi]

/-! ## No command reads the descriptor registers (42 R157; 70 R262) -/

/-- No contract check reads the descriptor registers. -/
theorem violation_of_descriptor (i : Instr) (s : State) (q : Descriptor) (b : Bool) :
    violation { s with q := q, qValid := b } i = violation s i := by
  cases i <;> rfl

/-- No command whose contract holds reads the descriptor registers: what it leaves differs in them at most. -/
theorem effect_of_descriptor (i : Instr) (s : State) (q : Descriptor) (b : Bool) :
    { effect { s with q := q, qValid := b } i with q := (effect s i).q, qValid := (effect s i).qValid } =
      effect s i := by
  cases i with
  | bsrRead w => simp only [effect]; split <;> rfl
  | qNew r g b => simp only [effect]; split <;> rfl
  | imgNew width height r g b => simp only [effect]; split_ifs <;> rfl
  | frmDes =>
    simp only [effect, State.deserializeInput]
    rcases deserialize config s.inBuf with ⟨r, f | img⟩ <;> rfl
  | bswInit | bswWrite | bswFin | bswPos | bsrBind | bsrPos | qEnc | qDec | frmSer | imgColors | imgPixels
  | imgBytes =>
    rfl

/-- Settles O39: neither the contract checks (`violation_of_descriptor`) nor the effect (`effect_of_descriptor`) of a
command reads the descriptor registers. -/
theorem noCommandReadsTheDescriptor : Obligations.NoCommandReadsTheDescriptor := by
  intro i s t q b h
  obtain ⟨ha, rfl⟩ | ⟨ha, c, hv, rfl⟩ | ⟨ha, hv, rfl⟩ := exec_cases h
  · exact ⟨_, exec_aborted i ha, rfl⟩
  · exact ⟨_, exec_of_violation ha ((violation_of_descriptor i s q b).trans hv), rfl⟩
  · exact ⟨_, exec_of_no_violation ha ((violation_of_descriptor i s q b).trans hv), effect_of_descriptor i s q b⟩

end Sys2Proof.Machine
end

section
/-! PROOFS. The deserialize sequence: a chain of tests on the fields of the buffer, what each end of it leaves, and the
bits that it depends on (43 R174 to R177; 30_encoding R80 to R85). -/

namespace Sys2Proof.Machine

/-! ## The Image a buffer spells (30_encoding R80, R85) -/

/-- The descriptor whose fields stand in the buffer. -/
def declaredDescriptor (buf : List Byte) : Descriptor where
  r := BitVec.ofNat 4 (fieldAt buf 96 4)
  g := BitVec.ofNat 4 (fieldAt buf 100 4)
  b := BitVec.ofNat 4 (fieldAt buf 104 4)

/-- The Image whose header fields and pixel indices stand in the buffer. -/
def declaredImage (c : Config) (buf : List Byte) : Image where
  width := BitVec.ofNat 16 (fieldAt buf 64 16)
  height := BitVec.ofNat 16 (fieldAt buf 80 16)
  q := declaredDescriptor buf
  pix := (List.range (pixelCount (BitVec.ofNat 16 (fieldAt buf 64 16)) (BitVec.ofNat 16 (fieldAt buf 80 16)))).map
    fun i => pixelFrom c (declaredDescriptor buf) buf (headerBits c + i * (declaredDescriptor buf).pixelBits)

section Declared
variable (c : Config) (buf : List Byte)

theorem ofNat_fieldAt_toNat (k n : Nat) : (BitVec.ofNat n (fieldAt buf k n)).toNat = fieldAt buf k n :=
  Nat.mod_eq_of_lt (fieldAt_lt buf k n)

@[simp] theorem declaredImage_width_toNat : (declaredImage c buf).width.toNat = fieldAt buf 64 16 :=
  ofNat_fieldAt_toNat buf 64 16

@[simp] theorem declaredImage_height_toNat : (declaredImage c buf).height.toNat = fieldAt buf 80 16 :=
  ofNat_fieldAt_toNat buf 80 16

@[simp] theorem declaredImage_r_toNat : (declaredImage c buf).q.r.toNat = fieldAt buf 96 4 :=
  ofNat_fieldAt_toNat buf 96 4

@[simp] theorem declaredImage_g_toNat : (declaredImage c buf).q.g.toNat = fieldAt buf 100 4 :=
  ofNat_fieldAt_toNat buf 100 4

@[simp] theorem declaredImage_b_toNat : (declaredImage c buf).q.b.toNat = fieldAt buf 104 4 :=
  ofNat_fieldAt_toNat buf 104 4

/-- The pixels stand one after another from the end of the header on (30_encoding R85). -/
theorem declaredImage_pixelAt {i : Nat} {p : Rgb} (h : (declaredImage c buf).pixelAt i = some p) :
    p = pixelFrom c (declaredImage c buf).q buf (headerBits c + i * (declaredImage c buf).q.pixelBits) := by
  obtain ⟨hi, rfl⟩ := List.getElem?_eq_some_iff.mp h
  simp [declaredImage]

end Declared

/-- The magic value stands in the buffer, neither declared dimension is 0, and no declared channel width is above 8: the
three checks of a deserialize (43 R175). -/
def GoodHeader (c : Config) (buf : List Byte) : Prop :=
  fieldAt buf 0 64 = c.magic.toNat ∧
    dimensionsLegal (declaredImage c buf).width (declaredImage c buf).height = true ∧
    (declaredImage c buf).q.legal = true

/-! ## A deserialize as a chain of tests (43 R175) -/

/-- A reader bound to the buffer, `k` bits of it consumed. -/
def readerAt (buf : List Byte) (k : Nat) : Reader := { buf := buf, cur := k, bound := true }

@[simp] theorem readerAt_buf (buf : List Byte) (k : Nat) : (readerAt buf k).buf = buf := rfl

@[simp] theorem readerAt_cur (buf : List Byte) (k : Nat) : (readerAt buf k).cur = k := rfl

@[simp] theorem readerAt_advance (buf : List Byte) (k n : Nat) : (readerAt buf k).advance n = readerAt buf (k + n) :=
  rfl

/-- A field as a word of any width. -/
theorem Reader.field_setWidth (r : Reader) {n : Nat} (hn : n ≤ 64) (m : Nat) :
    (r.field n).setWidth m = BitVec.ofNat m (fieldAt r.buf r.cur n) := by
  apply BitVec.eq_of_toNat_eq
  rw [BitVec.toNat_setWidth, BitVec.toNat_ofNat, r.field_toNat hn]

/-- A check that raises its failure, and what follows it. -/
theorem parseThen_guard_raise {β : Type} (holds : Bool) (e : Failure) (f : Unit → Parse β) (r : Reader) :
    parseThen (parseGuard holds e) f r = if holds = false then (r, .error e) else f () r := by
  cases holds <;> rfl

section Chain
variable {β : Type} (c : Config) (buf : List Byte) (k : Nat)

theorem parseThen_magic (f : Unit → Parse β) :
    parseThen (parseMagic c) f (readerAt buf k) =
      if bitlen buf < k + 64 then (readerAt buf k, .error .truncatedData)
      else if fieldAt buf k 64 ≠ c.magic.toNat then (readerAt buf (k + 64), .error .magicMismatch)
      else f () (readerAt buf (k + 64)) := by
  have hmagic : ((readerAt buf k).field 64 == c.magic) = false ↔ fieldAt buf k 64 ≠ c.magic.toNat := by
    rw [beq_eq_false_iff_ne, ne_eq, ← BitVec.toNat_inj, Reader.field_toNat _ (Nat.le_refl 64), readerAt_buf,
      readerAt_cur]
  simp only [parseMagic, parseThen_assoc, parseThen_field, parseThen_guard_raise, hmagic, readerAt_advance,
    readerAt_buf, readerAt_cur]

theorem parseThen_dimensions (f : Dim × Dim → Parse β) :
    parseThen parseDimensions f (readerAt buf k) =
      if bitlen buf < k + 16 then (readerAt buf k, .error .truncatedData)
      else if bitlen buf < k + 16 + 16 then (readerAt buf (k + 16), .error .truncatedData)
      else if dimensionsLegal (BitVec.ofNat 16 (fieldAt buf k 16)) (BitVec.ofNat 16 (fieldAt buf (k + 16) 16)) = false
        then (readerAt buf (k + 16 + 16), .error .invalidDimensions)
      else f (BitVec.ofNat 16 (fieldAt buf k 16), BitVec.ofNat 16 (fieldAt buf (k + 16) 16))
        (readerAt buf (k + 16 + 16)) := by
  simp [parseDimensions, parseThen_assoc, parseThen_field, parseThen_guard_raise, parseThen_pure, Reader.field_setWidth]

/-- The pad is one more field, of no bits where none is configured (30_encoding R85). -/
theorem parseThen_headerPad (f : Unit → Parse β) (h : k ≤ bitlen buf) :
    parseThen (parseHeaderPad c) f (readerAt buf k) =
      if bitlen buf < k + hdrPadBits c.hdrPad then (readerAt buf k, .error .truncatedData)
      else f () (readerAt buf (k + hdrPadBits c.hdrPad)) := by
  unfold parseHeaderPad
  cases c.hdrPad with
  | unpadded => exact (if_neg (Nat.not_lt.mpr h)).symm
  | nibble => exact (parseThen_assoc _ _ _ _).trans (parseThen_field 4 _ _)

theorem parseThen_descriptor (f : Descriptor → Parse β) (q : Descriptor)
    (hq : q = ⟨BitVec.ofNat 4 (fieldAt buf k 4), BitVec.ofNat 4 (fieldAt buf (k + 4) 4),
      BitVec.ofNat 4 (fieldAt buf (k + 4 + 4) 4)⟩) :
    parseThen (parseDescriptor c) f (readerAt buf k) =
      if bitlen buf < k + 4 then (readerAt buf k, .error .truncatedData)
      else if bitlen buf < k + 4 + 4 then (readerAt buf (k + 4), .error .truncatedData)
      else if bitlen buf < k + 4 + 4 + 4 then (readerAt buf (k + 4 + 4), .error .truncatedData)
      else if bitlen buf < k + 4 + 4 + 4 + hdrPadBits c.hdrPad then
        (readerAt buf (k + 4 + 4 + 4), .error .truncatedData)
      else if q.legal = false then (readerAt buf (k + 4 + 4 + 4 + hdrPadBits c.hdrPad), .error .invalidQuantization)
      else f q (readerAt buf (k + 4 + 4 + 4 + hdrPadBits c.hdrPad)) := by
  simp only [parseDescriptor, parseThen_assoc, parseThen_field, readerAt_advance, readerAt_buf, readerAt_cur,
    Reader.field_setWidth _ (show 4 ≤ 64 by decide), ← hq]
  by_cases h : bitlen buf < k + 4 + 4 + 4
  · simp only [h, if_true]
  · simp only [parseThen_headerPad c buf _ _ (Nat.le_of_not_lt h), parseThen_assoc, parseThen_guard_raise,
      parseThen_pure]

end Chain

/-- The stretch that reads the pixel data which the header of the buffer declares (43 R175). -/
def parseDeclaredPixels (c : Config) (buf : List Byte) : Parse Image :=
  parseThen (parsePixels c (declaredImage c buf).q
      (pixelCount (declaredImage c buf).width (declaredImage c buf).height)) fun pix =>
    parsePure { declaredImage c buf with pix := pix }

/-- The whole sequence after the bind: each field is tested for its bits, each group of fields is checked when all of it
is read, and the pixel data comes last (43 R175). -/
theorem deserialize_eq (c : Config) (buf : List Byte) : deserialize c buf =
    if bitlen buf < 64 then (readerAt buf 0, .error .truncatedData)
    else if fieldAt buf 0 64 ≠ c.magic.toNat then (readerAt buf 64, .error .magicMismatch)
    else if bitlen buf < 80 then (readerAt buf 64, .error .truncatedData)
    else if bitlen buf < 96 then (readerAt buf 80, .error .truncatedData)
    else if dimensionsLegal (declaredImage c buf).width (declaredImage c buf).height = false then
      (readerAt buf 96, .error .invalidDimensions)
    else if bitlen buf < 100 then (readerAt buf 96, .error .truncatedData)
    else if bitlen buf < 104 then (readerAt buf 100, .error .truncatedData)
    else if bitlen buf < 108 then (readerAt buf 104, .error .truncatedData)
    else if bitlen buf < headerBits c then (readerAt buf 108, .error .truncatedData)
    else if (declaredImage c buf).q.legal = false then (readerAt buf (headerBits c), .error .invalidQuantization)
    else parseDeclaredPixels c buf (readerAt buf (headerBits c)) := by
  have hbind : Reader.bindTo buf = readerAt buf 0 := rfl
  rw [deserialize, parseImage, hbind, parseThen_magic, parseThen_dimensions, parseThen_descriptor c buf _ _ _ rfl]
  rfl

/-- The ways a deserialize can end before it reads a pixel: with `k` bits consumed and the failure that it raises. -/
inductive HeaderFailure (c : Config) (buf : List Byte) : (k : Nat) → Failure → Prop
  | truncated (k n : Nat)
      (hfield : (k, n) ∈ [(0, 64), (64, 16), (80, 16), (96, 4), (100, 4), (104, 4), (108, hdrPadBits c.hdrPad)])
      (hshort : bitlen buf < k + n) : HeaderFailure c buf k .truncatedData
  | magic (h : fieldAt buf 0 64 ≠ c.magic.toNat) : HeaderFailure c buf 64 .magicMismatch
  | dimensions (h : dimensionsLegal (declaredImage c buf).width (declaredImage c buf).height = false) :
    HeaderFailure c buf 96 .invalidDimensions
  | quantization (h : (declaredImage c buf).q.legal = false) :
    HeaderFailure c buf (headerBits c) .invalidQuantization

/-- A deserialize that ended with the header, as one of its failures says. -/
def StopsAtHeader (c : Config) (buf : List Byte) (x : Reader × Except Failure Image) : Prop :=
  ∃ k f, HeaderFailure c buf k f ∧ x = (readerAt buf k, .error f)

/-- One test of the chain: it ends the sequence, or the tests after it decide. -/
theorem StopsAtHeader.test {c : Config} {buf : List Byte} {k : Nat} {f : Failure} {x : Reader × Except Failure Image}
    {fails goesOn : Prop} [Decidable fails] (hstop : fails → HeaderFailure c buf k f)
    (hrest : ¬ fails → StopsAtHeader c buf x ∨ goesOn) :
    StopsAtHeader c buf (if fails then (readerAt buf k, .error f) else x) ∨ goesOn := by
  split
  next h => exact .inl ⟨k, f, hstop h, rfl⟩
  next h => exact hrest h

/-- Everything the header can make of a deserialize: it ends there, or the header is good and all there. -/
theorem deserialize_header_cases (c : Config) (buf : List Byte) :
    StopsAtHeader c buf (deserialize c buf) ∨ (GoodHeader c buf ∧ headerBits c ≤ bitlen buf) := by
  rw [deserialize_eq]
  refine StopsAtHeader.test (.truncated 0 64 (by simp)) fun _ => ?_
  refine StopsAtHeader.test .magic fun hmagic => ?_
  refine StopsAtHeader.test (.truncated 64 16 (by simp)) fun _ => ?_
  refine StopsAtHeader.test (.truncated 80 16 (by simp)) fun _ => ?_
  refine StopsAtHeader.test .dimensions fun hdims => ?_
  refine StopsAtHeader.test (.truncated 96 4 (by simp)) fun _ => ?_
  refine StopsAtHeader.test (.truncated 100 4 (by simp)) fun _ => ?_
  refine StopsAtHeader.test (.truncated 104 4 (by simp)) fun _ => ?_
  refine StopsAtHeader.test (.truncated 108 (hdrPadBits c.hdrPad) (by simp)) fun hpad => ?_
  refine StopsAtHeader.test .quantization fun hq => ?_
  exact .inr ⟨⟨not_not.mp hmagic, by simpa using hdims, by simpa using hq⟩, Nat.le_of_not_lt hpad⟩

theorem le_headerBits (c : Config) : 108 ≤ headerBits c := Nat.le_add_right _ _

section Deserialize
variable {c : Config} {buf : List Byte} {r : Reader} {img : Image}

/-- A good header that is all there leaves the pixel data to be read. -/
theorem deserialize_of_goodHeader (h : GoodHeader c buf) (hb : headerBits c ≤ bitlen buf) :
    deserialize c buf = parseDeclaredPixels c buf (readerAt buf (headerBits c)) := by
  obtain ⟨hmagic, hdims, hq⟩ := h
  have hle := le_headerBits c
  rw [deserialize_eq, if_neg (by omega), if_neg (not_not.mpr hmagic), if_neg (by omega), if_neg (by omega),
    if_neg (by simp [hdims]), if_neg (by omega), if_neg (by omega), if_neg (by omega), if_neg (by omega),
    if_neg (by simp [hq])]

/-- The pixel data that a good header declares, read from the end of the header on. -/
theorem parseDeclaredPixels_reads (c : Config) (hb : headerBits c ≤ bitlen buf) :
    ParseReads (parseDeclaredPixels c buf) (readerAt buf (headerBits c)) (declaredImage c buf).pixelDataBits
      (declaredImage c buf) :=
  parseThen_reads (n := 0) (parsePixels_reads c _ _ _ hb) fun h => parsePure_reads _ _ h

/-- A deserialize of a good header and of all the pixel bits it declares makes the declared Image (43 R174). -/
theorem deserialize_of_le (h : GoodHeader c buf)
    (hb : headerBits c + (declaredImage c buf).pixelDataBits ≤ bitlen buf) :
    deserialize c buf =
      (readerAt buf (headerBits c + (declaredImage c buf).pixelDataBits), .ok (declaredImage c buf)) :=
  (deserialize_of_goodHeader h (by omega)).trans ((parseDeclaredPixels_reads c (by omega)).1 hb)

/-- A deserialize of a good header and of too few pixel bits fails (43 R175). -/
theorem deserialize_of_short (h : GoodHeader c buf) (hb : headerBits c ≤ bitlen buf)
    (hs : bitlen buf < headerBits c + (declaredImage c buf).pixelDataBits) :
    ∃ r, deserialize c buf = (r, .error .truncatedData) := by
  obtain ⟨m, -, hm⟩ := (parseDeclaredPixels_reads c hb).2 hs
  exact ⟨_, (deserialize_of_goodHeader h hb).trans hm⟩

/-- A deserialize that succeeds has made the declared Image, and has read the header and the pixel data (43 R177). -/
theorem deserialize_of_ok (h : deserialize c buf = (r, .ok img)) :
    img = declaredImage c buf ∧ r = readerAt buf (headerBits c + img.pixelDataBits) := by
  obtain ⟨k, f, -, hd⟩ | ⟨hgood, hb⟩ := deserialize_header_cases c buf
  · exact absurd (hd.symm.trans h) (by simp)
  · by_cases hle : headerBits c + (declaredImage c buf).pixelDataBits ≤ bitlen buf
    · obtain ⟨hr, himg⟩ := Prod.mk.inj ((deserialize_of_le hgood hle).symm.trans h)
      rw [← Except.ok.inj himg]
      exact ⟨rfl, hr.symm⟩
    · obtain ⟨r', hd⟩ := deserialize_of_short hgood hb (Nat.lt_of_not_le hle)
      exact absurd (hd.symm.trans h) (by simp)

end Deserialize

/-! ## The failures inside the pixel data (43 R176) -/

theorem Nibble.toNat_le_64 (x : Nibble) : x.toNat ≤ 64 := Nat.le_of_lt (Nat.lt_trans (Nibble.toNat_lt x) (by decide))

section Pixels
variable {c : Config} {q : Descriptor} {r r' : Reader} {e : Failure}

/-- A stretch that succeeded has consumed its bits, and all of them were there. -/
theorem ParseReads.of_ok {α : Type} {p : Parse α} {n : Nat} {a b : α} (hp : ParseReads p r n a)
    (h : p r = (r', .ok b)) : r' = r.advance n ∧ r'.Wf := by
  by_cases hle : r.cur + n ≤ bitlen r.buf
  · obtain ⟨hr, -⟩ := Prod.mk.inj ((hp.1 hle).symm.trans h)
    exact ⟨hr.symm, hr ▸ hle⟩
  · obtain ⟨m, -, hm⟩ := hp.2 (Nat.lt_of_not_le hle)
    exact absurd (hm.symm.trans h) (by simp)

/-- Cursor and width of the three fields of the pixel that stands at stream bit `p` (30_encoding R85). -/
def pixelSlots (q : Descriptor) (p : Nat) : List (Nat × Nat) :=
  [(p, q.r.toNat), (p + q.r.toNat, q.g.toNat), (p + q.r.toNat + q.g.toNat, q.b.toNat)]

/-- A stretch that failed was cut off in the field of the list that stands at the cursor it left. -/
def CutOffIn (fields : List (Nat × Nat)) (r' : Reader) (e : Failure) : Prop :=
  e = .truncatedData ∧ ∃ n, (r'.cur, n) ∈ fields ∧ bitlen r'.buf < r'.cur + n

/-- A channel that fails is cut off in its own field. -/
theorem parseChannel_error {bits : Nat} {fields : List (Nat × Nat)} (hfield : (r.cur, bits) ∈ fields)
    (h : parseChannel c bits r = (r', .error e)) : CutOffIn fields r' e := by
  unfold parseChannel at h
  split at h
  · exact absurd h parsePure_ne_error
  · obtain h | ⟨_, _, -, h⟩ := parseThen_eq_error.mp h
    · obtain ⟨hs, rfl, he⟩ := parseField_eq_error.mp h
      exact ⟨he, bits, hfield, hs⟩
    · exact absurd h parsePure_ne_error

/-- A channel that succeeded has consumed its field. -/
theorem parseChannel_ok {bits : Nat} {v : Byte} (hb : bits ≤ 64) (hr : r.Wf)
    (h : parseChannel c bits r = (r', .ok v)) : r' = r.advance bits ∧ r'.Wf :=
  (parseChannel_reads c bits hb r hr).of_ok h

/-- A pixel that fails is cut off in one of its three fields. -/
theorem parsePixel_error (hr : r.Wf) (h : parsePixel c q r = (r', .error e)) : CutOffIn (pixelSlots q r.cur) r' e := by
  obtain h | ⟨_, _, h1, h⟩ := parseThen_eq_error.mp h
  · exact parseChannel_error (by simp [pixelSlots]) h
  obtain ⟨rfl, hr1⟩ := parseChannel_ok (Nibble.toNat_le_64 _) hr h1
  obtain h | ⟨_, _, h2, h⟩ := parseThen_eq_error.mp h
  · exact parseChannel_error (by simp [pixelSlots]) h
  obtain ⟨rfl, hr2⟩ := parseChannel_ok (Nibble.toNat_le_64 _) hr1 h2
  obtain h | ⟨_, _, h3, h⟩ := parseThen_eq_error.mp h
  · exact parseChannel_error (by simp [pixelSlots]) h
  · exact absurd h parsePure_ne_error

/-- The pixel data is cut off in a field of one of its pixels. -/
theorem parsePixels_error {n : Nat} (hr : r.Wf) (h : parsePixels c q n r = (r', .error e)) :
    ∃ i < n, CutOffIn (pixelSlots q (r.cur + i * q.pixelBits)) r' e := by
  induction n generalizing r with
  | zero => exact absurd h parsePure_ne_error
  | succ n ih =>
    obtain h | ⟨r1, _, h1, h⟩ := parseThen_eq_error.mp h
    · exact ⟨0, Nat.succ_pos n, by simpa using parsePixel_error hr h⟩
    obtain ⟨rfl, hr1⟩ := (parsePixel_reads c q r hr).of_ok h1
    obtain h | ⟨_, _, -, h⟩ := parseThen_eq_error.mp h
    · obtain ⟨i, hi, hcut⟩ := ih hr1 h
      refine ⟨i + 1, Nat.succ_lt_succ hi, ?_⟩
      rwa [Nat.succ_mul, Nat.add_comm (i * _), ← Nat.add_assoc]
    · exact absurd h parsePure_ne_error

end Pixels

/-- Everything a deserialize that fails can have met: a header that ends it, or pixel data cut off in one of the
declared fields (43 R176). -/
theorem deserialize_error {c : Config} {buf : List Byte} {r : Reader} {e : Failure}
    (h : deserialize c buf = (r, .error e)) :
    HeaderFailure c buf r.cur e ∨
      ∃ i < pixelCount (declaredImage c buf).width (declaredImage c buf).height,
        CutOffIn (pixelSlots (declaredImage c buf).q (headerBits c + i * (declaredImage c buf).q.pixelBits)) r e := by
  obtain ⟨k, f, hfail, hd⟩ | ⟨hgood, hb⟩ := deserialize_header_cases c buf
  · obtain ⟨hr, hf⟩ := Prod.mk.inj (hd.symm.trans h)
    exact .inl (hr ▸ Except.error.inj hf ▸ hfail)
  · rw [deserialize_of_goodHeader hgood hb] at h
    obtain h | ⟨_, _, -, h⟩ := parseThen_eq_error.mp h
    · exact .inr (parsePixels_error hb h)
    · exact absurd h parsePure_ne_error

/-! ## What a deserialize depends on (43 R177) -/

/-- A stretch that succeeds looks at nothing but the bits it consumes: another reader that stands at the same cursor,
and whose bits from there on are the same as far as they go, makes the same value of them, or finds too few. -/
def ParseLocal {α : Type} (p : Parse α) : Prop :=
  ∀ (r r' : Reader) (a : α), p r = (r', .ok a) → ∃ n, r' = r.advance n ∧ ∀ u : Reader, u.Wf → u.cur = r.cur →
    (∀ k, r.cur ≤ k → k < r.cur + n → k < bitlen u.buf → sbit u.buf k = sbit r.buf k) → ParseReads p u n a

theorem parsePure_local {α : Type} (a : α) : ParseLocal (parsePure a) := by
  intro r r' b h
  obtain ⟨rfl, rfl⟩ := parsePure_eq.mp h
  exact ⟨0, rfl, fun u hu _ _ => parsePure_reads _ u hu⟩

theorem parseGuard_local (holds : Bool) (f : Failure) : ParseLocal (parseGuard holds f) := by
  intro r r' a h
  obtain ⟨rfl, rfl⟩ := parseGuard_eq_ok.mp h
  exact ⟨0, rfl, fun u hu _ _ => parsePure_reads _ u hu⟩

theorem parseField_local {n : Nat} (hn : n ≤ 64) : ParseLocal (parseField n) := by
  intro r r' v h
  obtain ⟨-, rfl, rfl⟩ := parseField_eq_ok.mp h
  refine ⟨n, rfl, fun u hu hcur hbits => ⟨fun hle => ?_, fun hs => ?_⟩⟩
  · refine parseField_eq_ok.mpr ⟨hle, rfl, BitVec.eq_of_toNat_eq ?_⟩
    rw [r.field_toNat hn, u.field_toNat hn, hcur]
    exact (fieldAt_congr fun k h1 h2 => hbits k h1 h2 (by omega)).symm
  · have hpos : 0 < n := by have hwf : u.cur ≤ bitlen u.buf := hu; omega
    exact (parseField_reads n hpos u).2 hs

theorem parseThen_local {α β : Type} {p : Parse α} {f : α → Parse β} (hp : ParseLocal p) (hf : ∀ a, ParseLocal (f a)) :
    ParseLocal (parseThen p f) := by
  intro r r₂ b h
  obtain ⟨r₁, a, h1, h2⟩ := parseThen_eq_ok.mp h
  obtain ⟨m, rfl, hm⟩ := hp r r₁ a h1
  obtain ⟨n, rfl, hn⟩ := hf a (r.advance m) r₂ b h2
  refine ⟨m + n, r.advance_advance m n, fun u hu hcur hbits => ?_⟩
  refine parseThen_reads (hm u hu hcur fun k hk hk' => hbits k hk (by omega)) fun hmid => ?_
  refine hn (u.advance m) hmid (by simp [hcur]) fun k hk hk' => hbits k ?_ ?_
  · exact Nat.le_trans (Nat.le_add_right _ _) hk
  · rwa [Reader.advance_cur, Nat.add_assoc] at hk'

theorem parseChannel_local (c : Config) {bits : Nat} (hb : bits ≤ 64) : ParseLocal (parseChannel c bits) := by
  unfold parseChannel
  split
  · exact parsePure_local _
  · exact parseThen_local (parseField_local hb) fun _ => parsePure_local _

theorem parsePixel_local (c : Config) (q : Descriptor) : ParseLocal (parsePixel c q) := by
  have hchannel : ∀ x : Nibble, ParseLocal (parseChannel c x.toNat) := fun x =>
    parseChannel_local c (Nibble.toNat_le_64 x)
  exact parseThen_local (hchannel q.r) fun _ => parseThen_local (hchannel q.g) fun _ =>
    parseThen_local (hchannel q.b) fun _ => parsePure_local _

theorem parsePixels_local (c : Config) (q : Descriptor) : ∀ n, ParseLocal (parsePixels c q n)
  | 0 => parsePure_local _
  | n + 1 => parseThen_local (parsePixel_local c q) fun _ => parseThen_local (parsePixels_local c q n) fun _ =>
      parsePure_local _

theorem parseMagic_local (c : Config) : ParseLocal (parseMagic c) :=
  parseThen_local (parseField_local (by decide)) fun _ => parseGuard_local _ _

theorem parseDimensions_local : ParseLocal parseDimensions :=
  parseThen_local (parseField_local (by decide)) fun _ => parseThen_local (parseField_local (by decide)) fun _ =>
    parseThen_local (parseGuard_local _ _) fun _ => parsePure_local _

theorem parseHeaderPad_local (c : Config) : ParseLocal (parseHeaderPad c) := by
  unfold parseHeaderPad
  split
  · exact parsePure_local _
  · exact parseThen_local (parseField_local (by decide)) fun _ => parsePure_local _

theorem parseDescriptor_local (c : Config) : ParseLocal (parseDescriptor c) :=
  parseThen_local (parseField_local (by decide)) fun _ => parseThen_local (parseField_local (by decide)) fun _ =>
    parseThen_local (parseField_local (by decide)) fun _ => parseThen_local (parseHeaderPad_local c) fun _ =>
      parseThen_local (parseGuard_local _ _) fun _ => parsePure_local _

theorem parseImage_local (c : Config) : ParseLocal (parseImage c) :=
  parseThen_local (parseMagic_local c) fun _ => parseThen_local parseDimensions_local fun _ =>
    parseThen_local (parseDescriptor_local c) fun _ => parseThen_local (parsePixels_local c _ _) fun _ =>
      parsePure_local _

/-- A deserialize that succeeds, on a buffer that agrees as far as it goes with the bits it read: the same Image if it
goes far enough, else a truncation (43 R177, R180). -/
theorem deserialize_reads_of_agree {c : Config} {buf buf' : List Byte} {k : Nat} {img : Image}
    (h : deserialize c buf = (readerAt buf k, .ok img))
    (hbits : ∀ j, j < k → j < bitlen buf' → sbit buf' j = sbit buf j) :
    ParseReads (parseImage c) (readerAt buf' 0) k img := by
  obtain ⟨n, hn, hlocal⟩ := parseImage_local c _ _ _ h
  have hk : k = 0 + n := congrArg Reader.cur hn
  rw [hk, Nat.zero_add]
  exact hlocal (readerAt buf' 0) (Nat.zero_le _) rfl fun j _ hj => hbits j (hk ▸ hj)

end Sys2Proof.Machine
end

section
/-! PROOFS. The frame codec's round trip: what a serialized Image spells, `FRM.SER` and `FRM.DES` by the way they end,
and the one after the other (43 R180). -/

namespace Sys2Proof.Machine

/-! ## The round trip as functions (43 R180) -/

section Serialized
variable (c : Config) {img : Image}

/-- The header fields of a serialized Image (30_encoding R80). -/
theorem serialize_header (h : img.Wf) :
    fieldAt (serialize c img) 0 64 = c.magic.toNat ∧ fieldAt (serialize c img) 64 16 = img.width.toNat ∧
      fieldAt (serialize c img) 80 16 = img.height.toNat ∧ fieldAt (serialize c img) 96 4 = img.q.r.toNat ∧
      fieldAt (serialize c img) 100 4 = img.q.g.toNat ∧ fieldAt (serialize c img) 104 4 = img.q.b.toNat := by
  have hagree : (serializeWriter c img).AgreesWith (serialize c img) := fun _ _ => rfl
  obtain ⟨hheader, -⟩ :=
    Writer.AgreesWith.of_pixels h.legal img.colors _ (putHeader_wf Writer.fresh_wf c img) hagree
  exact Writer.AgreesWith.of_putHeader hheader

/-- A channel whose index stands in the buffer decodes from it. -/
theorem channelAt_eq {buf : List Byte} {k bits : Nat} {value : Byte} (h : fieldAt buf k bits = (enc value bits).toNat) :
    channelAt c buf k bits = dec c (enc value bits) bits := by
  rw [channelAt, h, BitVec.ofNat_toNat, BitVec.setWidth_eq]

/-- A serialized Image spells that Image, requantized (43 R180). -/
theorem declaredImage_serialize (h : img.Wf) : declaredImage c (serialize c img) = img.requantized c := by
  obtain ⟨-, hwidth, hheight, hr, hg, hb⟩ := serialize_header c h
  have hq : declaredDescriptor (serialize c img) = img.q := by
    simp only [declaredDescriptor, hr, hg, hb, BitVec.ofNat_toNat, BitVec.setWidth_eq]
  have ⟨_, _, _, hlen⟩ := h
  have hpix : (List.range (pixelCount img.width img.height)).map (fun i =>
      pixelFrom c img.q (serialize c img) (headerBits c + i * img.q.pixelBits)) =
        img.pix.map (Rgb.requantized c img.q) := by
    refine List.ext_getElem (by simp [hlen]) fun i _ hi => ?_
    obtain ⟨h1, h2, h3⟩ := serializedPixelPlacement c img i (img.pix[i]'(by simpa using hi)) h (by simp [Image.pixelAt])
    simp only [List.getElem_map, List.getElem_range, pixelFrom, Rgb.requantized, channelAt_eq c h1, channelAt_eq c h2,
      channelAt_eq c h3]
  simp only [declaredImage, Image.requantized, hq, hwidth, hheight, BitVec.ofNat_toNat, BitVec.setWidth_eq, hpix]

theorem goodHeader_serialize (h : img.Wf) : GoodHeader c (serialize c img) := by
  obtain ⟨hmagic, -⟩ := serialize_header c h
  have ⟨hwidth, hheight, hq, _⟩ := h
  rw [GoodHeader, declaredImage_serialize c h]
  exact ⟨hmagic, dimensionsLegal_eq_true.mpr ⟨hwidth, hheight⟩, hq⟩

/-- A serialized Image holds every bit of its layout (30_encoding R86). -/
theorem le_bitlen_serialize (h : img.Wf) : headerBits c + img.pixelDataBits ≤ bitlen (serialize c img) := by
  rw [bitlen, serialize_length h, bytesFor]
  omega

theorem deserialize_serialize (h : img.Wf) : deserialize c (serialize c img) =
    (readerAt (serialize c img) (headerBits c + img.pixelDataBits), .ok (img.requantized c)) := by
  have hd := deserialize_of_le (goodHeader_serialize c h)
  rw [declaredImage_serialize c h] at hd
  exact hd (le_bitlen_serialize c h)

end Serialized

/-- Settles O30: the serialized bytes spell the requantized Image, in a good header and all the bits it declares. -/
theorem roundTripForEveryConfiguration : Obligations.RoundTripForEveryConfiguration := fun c _ h =>
  deserialize_serialize c h

/-- At width 8 nothing is lost (42 R152). -/
theorem Image.requantized_of_eight (c : Config) {img : Image} (hq : img.q = ⟨8, 8, 8⟩) : img.requantized c = img := by
  have hpixel : Rgb.requantized c img.q = id := funext fun p => by simp [hq, Rgb.requantized, enc, dec]
  rw [Image.requantized, hpixel, List.map_id]

theorem Image.Wf.requantized {c : Config} {img : Image} (h : img.Wf) : (img.requantized c).Wf := by
  obtain ⟨hwidth, hheight, hq, hlen⟩ := h
  exact ⟨hwidth, hheight, hq, (List.length_map _).trans hlen⟩

/-- A requantized channel is written as the channel was (42 R154). -/
theorem putChannel_dec_enc {bits : Nat} (hb : bits ≤ 8) (value : Byte) (w : Writer) :
    putChannel bits (dec config (enc value bits) bits) w = putChannel bits value w := by
  rw [putChannel, putChannel, enc_dec hb (enc_lt value bits hb)]

/-- A requantized Image has the bytes of the Image (43 R180). -/
theorem serialize_requantized {img : Image} (h : img.Wf) :
    serialize config (img.requantized config) = serialize config img := by
  obtain ⟨hr, hg, hb⟩ := Descriptor.legal_eq_true.mp h.legal
  have hpixel : ∀ w p, putPixel img.q w (Rgb.requantized config img.q p) = putPixel img.q w p := fun w p => by
    simp only [putPixel, Rgb.requantized, putChannel_dec_enc hr, putChannel_dec_enc hg, putChannel_dec_enc hb]
  have hheader : putHeader config (img.requantized config) Writer.fresh = putHeader config img Writer.fresh := rfl
  have hbody : (img.pix.map (Rgb.requantized config img.q)).foldl (putPixel img.q) (putHeader config img Writer.fresh) =
      img.pix.foldl (putPixel img.q) (putHeader config img Writer.fresh) := by
    rw [List.foldl_map]
    simp only [hpixel]
  rw [serialize, serialize, serializeWriter, serializeWriter, h.requantized.colors_eq, h.colors_eq, hheader]
  exact congrArg Writer.buf hbody

/-! ## The two commands, one equation per end -/

section Commands
variable {s t : State}

/-- `FRM.SER`, and `IMG.BYTES` which is the same command (43 R170; 44 R204). -/
theorem exec_serialize_of_image {i : Instr} (hi : i = .frmSer ∨ i = .imgBytes) (ha : s.abortSet = false)
    (hv : s.imgValid = true) : exec i s = .next s.serializeImage := by
  obtain rfl | rfl := hi <;> exact exec_of_no_violation ha (by simp [violation, hv])

theorem exec_serialize_of_noImage {i : Instr} (hi : i = .frmSer ∨ i = .imgBytes) (ha : s.abortSet = false)
    (hv : s.imgValid = false) : exec i s = .next (s.takeAbort .noImage) := by
  obtain rfl | rfl := hi <;> exact exec_of_violation ha (if_pos hv)

/-- `FRM.DES` of a stream that makes an Image (43 R174). -/
theorem exec_frmDes_of_ok {r : Reader} {img : Image} (ha : s.abortSet = false)
    (h : deserialize config s.inBuf = (r, .ok img)) :
    exec .frmDes s = .next ({ s with r := r, img := img, imgValid := true }.finish .ok) := by
  rw [exec_of_no_violation ha rfl, effect, State.deserializeInput, h]

/-- `FRM.DES` of a stream that makes none (43 R176). -/
theorem exec_frmDes_of_error {r : Reader} {f : Failure} (ha : s.abortSet = false)
    (h : deserialize config s.inBuf = (r, .error f)) :
    exec .frmDes s = .next ({ s with r := r }.failWith f) := by
  rw [exec_of_no_violation ha rfl, effect, State.deserializeInput, h]

theorem deserialize_of_succeeding (ha : s.abortSet = false) (h : exec .frmDes s = .next t) (ht : t.Succeeding) :
    t.imgValid = true ∧ deserialize config s.inBuf = (t.r, .ok t.img) := by
  rcases hd : deserialize config s.inBuf with ⟨r, f | img⟩
  · obtain rfl := Host.Outcome.next.inj ((exec_frmDes_of_error ha hd).symm.trans h)
    exact absurd ht (State.failWith_not_succeeding _ f)
  · obtain rfl := Host.Outcome.next.inj ((exec_frmDes_of_ok ha hd).symm.trans h)
    exact ⟨rfl, rfl⟩

theorem deserialize_of_failing {f : Failure} (ha : s.abortSet = false) (h : exec .frmDes s = .next t)
    (ht : t.Failing f) : deserialize config s.inBuf = (t.r, .error f) ∧ t = { s with r := t.r }.failWith f := by
  rcases hd : deserialize config s.inBuf with ⟨r, f' | img⟩
  · obtain rfl := Host.Outcome.next.inj ((exec_frmDes_of_error ha hd).symm.trans h)
    obtain rfl : f' = f := by simpa [State.Failing] using ht
    exact ⟨rfl, rfl⟩
  · obtain rfl := Host.Outcome.next.inj ((exec_frmDes_of_ok ha hd).symm.trans h)
    simp [State.Failing] at ht

end Commands

/-- `FRM.DES` of what `FRM.SER` left in `OUT` (43 R180). -/
theorem exec_frmDes_serializeImage {s : State} (ha : s.abortSet = false) (h : s.img.Wf) :
    exec .frmDes { s.serializeImage with inBuf := s.serializeImage.out } =
      .next ({ s.serializeImage with
        inBuf := s.serializeImage.out
        r := readerAt (serialize config s.img) (headerBits config + s.img.pixelDataBits)
        img := s.img.requantized config
        imgValid := true }.finish .ok) :=
  exec_frmDes_of_ok ha (deserialize_serialize config h)

/-- Settles O29: `FRM.DES` of the bytes is their deserialize, and that is `deserialize_serialize`. -/
theorem serializeThenDeserialize : Obligations.SerializeThenDeserialize := fun _ ha hv h =>
  ⟨_, _, exec_serialize_of_image (.inl rfl) ha hv, exec_frmDes_serializeImage ha h, State.finish_succeeding _ .ok, rfl,
    rfl, rfl, fun hq => Image.requantized_of_eight config hq⟩

/-- Settles O31: the Image that comes back is requantized, and a requantized Image has the same bytes. -/
theorem reserializeReturnsTheSameBytes : Obligations.ReserializeReturnsTheSameBytes := fun _ ha hv h =>
  ⟨_, _, _, exec_serialize_of_image (.inl rfl) ha hv, exec_frmDes_serializeImage ha h,
    exec_serialize_of_image (.inl rfl) ha rfl, ⟨_, rfl, by simp⟩, serialize_requantized h⟩

end Sys2Proof.Machine
end

section
/-! PROOFS. `FRM.SER`: its effect, the commands it expands to, and the header it writes (43 R170 to R173; 44 R204). -/

namespace Sys2Proof.Machine

/-! ## Serializing: the commands, their expansion and the header (43 R170, R171, R173) -/

theorem serializeWriter_mode (c : Config) (img : Image) : (serializeWriter c img).mode = .opened := by
  obtain ⟨-, -, hmode⟩ := foldl_putPixel img.q img.colors _ (putHeader_wf Writer.fresh_wf c img)
  exact hmode.trans (putHeader_mode _ _ _)

/-- The writer that the serialize sequence leaves (43 R173). -/
theorem serializeWriter_finalize {c : Config} {img : Image} (h : img.Wf) : (serializeWriter c img).finalize =
    { buf := serialize c img, cur := headerBits c + img.pixelDataBits, mode := .consumed } := by
  rw [← serializeWriter_cur c h]
  rfl

/-- Settles O21: both commands have the effect `State.serializeImage`, whose writer is `serializeWriter_finalize`. -/
theorem frmSerAndImgBytesFillOut : Obligations.FrmSerAndImgBytesFillOut := by
  refine ⟨fun i s hi ha hv h => ⟨_, exec_serialize_of_image hi ha hv, ?frame, rfl, serialize_length h⟩, fun _ => rfl,
    fun i s hi ha hv => exec_serialize_of_noImage hi ha hv⟩
  case frame =>
    rw [State.serializeImage, serializeWriter_finalize h]
    rfl

/-- Writes in contract, run after another command has ended in `ok`, change the writer only (40 R111). -/
theorem runAll_bswWrites_finish {fs : List StreamField} {s : State} (ha : s.abortSet = false) (hm : s.w.mode = .opened)
    (hfs : ∀ f ∈ fs, f.Fits) :
    runAll (fs.map fun f => .bswWrite f.1 f.2) (s.finish .ok) =
      some ({ s with w := s.w.putFields fs }.finish .ok) := by
  induction fs generalizing s with
  | nil => rfl
  | cons f fs ih =>
    obtain ⟨hf, hfs⟩ := List.forall_mem_cons.mp hfs
    rw [List.map_cons, runAll_cons (exec_bswWrite_of_fits (s := s.finish .ok) ha hm hf)]
    exact ih (s := { s with w := s.w.put f.1.toNat f.2 }) ha hm hfs

@[simp] theorem Writer.putFields_append (w : Writer) (fs gs : List StreamField) :
    w.putFields (fs ++ gs) = (w.putFields fs).putFields gs :=
  List.foldl_append

/-- The fields of the header (30_encoding R80). -/
def headerFields (img : Image) : List StreamField :=
  [(64, config.magic), (16, img.width.setWidth 64), (16, img.height.setWidth 64), (4, img.q.r.setWidth 64),
    (4, img.q.g.setWidth 64), (4, img.q.b.setWidth 64)]

/-- The field of a channel, none when its width is 0 (43 R172). -/
def channelFields (bits : Nibble) (value : Byte) : List StreamField :=
  if bits = 0 then [] else [(bits.setWidth 8, (enc value bits.toNat).setWidth 64)]

/-- The fields of a pixel, r then g then b (43 R171). -/
def pixelFields (q : Descriptor) (p : Rgb) : List StreamField :=
  channelFields q.r p.r ++ channelFields q.g p.g ++ channelFields q.b p.b

/-- The fields of a serialized Image (43 R171). -/
def imageFields (img : Image) : List StreamField := headerFields img ++ img.pix.flatMap (pixelFields img.q)

theorem toNat_setWidth_8 (x : Nibble) : (x.setWidth 8 : Byte).toNat = x.toNat :=
  BitVec.toNat_setWidth_of_le (by decide)

theorem Nibble.toNat_ne_zero {x : Nibble} (h : x ≠ 0) : x.toNat ≠ 0 := fun h0 => h (BitVec.eq_of_toNat_eq h0)

theorem channelCommands_eq (bits : Nibble) (value : Byte) :
    channelCommands bits value = (channelFields bits value).map fun f => .bswWrite f.1 f.2 := by
  unfold channelCommands channelFields
  split <;> rfl

/-- The commands that `FRM.SER` expands to are the writes of the fields, between `BSW.INIT` and `BSW.FIN`. -/
theorem serializeCommands_eq (img : Image) :
    serializeCommands img = .bswInit :: ((imageFields img).map (fun f => .bswWrite f.1 f.2) ++ [.bswFin]) := by
  have hpixel : pixelCommands img.q = fun p => (pixelFields img.q p).map fun f => .bswWrite f.1 f.2 := by
    funext p
    simp only [pixelCommands, pixelFields, channelCommands_eq, List.map_append]
  simp [serializeCommands, imageFields, headerFields, List.map_flatMap, hpixel, config]

theorem channelFields_fits {bits : Nibble} (hb : bits.toNat ≤ 8) (value : Byte) :
    ∀ f ∈ channelFields bits value, f.Fits := by
  unfold channelFields
  split
  next => simp
  next h =>
    have hpos := Nibble.toNat_ne_zero h
    rw [List.forall_mem_singleton, StreamField.Fits, toNat_setWidth_8, toNat_setWidth_64_8]
    exact ⟨by omega, by omega, enc_lt value _ hb⟩

theorem toNat_setWidth_64_lt {n : Nat} (x : BitVec n) : (x.setWidth 64).toNat < 2 ^ n :=
  Nat.lt_of_le_of_lt (by rw [BitVec.toNat_setWidth]; exact Nat.mod_le _ _) x.isLt

/-- No write of the expansion aborts (43 R173). -/
theorem imageFields_fit {img : Image} (h : img.Wf) : ∀ f ∈ imageFields img, f.Fits := by
  obtain ⟨hr, hg, hb⟩ := Descriptor.legal_eq_true.mp h.legal
  have hheader : ∀ f ∈ headerFields img, f.Fits := by
    simp only [headerFields, List.forall_mem_cons, StreamField.Fits]
    exact ⟨⟨by decide, by decide, config.magic.isLt⟩, ⟨by decide, by decide, toNat_setWidth_64_lt _⟩,
      ⟨by decide, by decide, toNat_setWidth_64_lt _⟩, ⟨by decide, by decide, toNat_setWidth_64_lt _⟩,
      ⟨by decide, by decide, toNat_setWidth_64_lt _⟩, ⟨by decide, by decide, toNat_setWidth_64_lt _⟩, by simp⟩
  have hpixel : ∀ p, ∀ f ∈ pixelFields img.q p, f.Fits := fun p =>
    List.forall_mem_append.mpr ⟨List.forall_mem_append.mpr
      ⟨channelFields_fits hr p.r, channelFields_fits hg p.g⟩, channelFields_fits hb p.b⟩
  refine List.forall_mem_append.mpr ⟨hheader, fun f hf => ?_⟩
  obtain ⟨p, -, hf⟩ := List.mem_flatMap.mp hf
  exact hpixel p f hf

theorem putFields_channelFields (w : Writer) (bits : Nibble) (value : Byte) :
    w.putFields (channelFields bits value) = putChannel bits.toNat value w := by
  unfold channelFields putChannel
  by_cases h : bits = 0
  · simp [h]
  · rw [if_neg h, if_neg (Nibble.toNat_ne_zero h), Writer.putFields_cons, toNat_setWidth_8, Writer.putFields_nil]

theorem putFields_pixels (q : Descriptor) (ps : List Rgb) (w : Writer) :
    w.putFields (ps.flatMap (pixelFields q)) = ps.foldl (putPixel q) w := by
  induction ps generalizing w with
  | nil => rfl
  | cons p ps ih =>
    rw [List.flatMap_cons, Writer.putFields_append, ih]
    simp only [pixelFields, Writer.putFields_append, putFields_channelFields, List.foldl_cons, putPixel]

/-- The fields, appended to a new writer, are the serialize sequence (43 R171). -/
theorem putFields_imageFields {img : Image} (h : img.Wf) :
    Writer.fresh.putFields (imageFields img) = serializeWriter config img := by
  have hheader : Writer.fresh.putFields (headerFields img) = putHeader config img Writer.fresh := rfl
  rw [imageFields, Writer.putFields_append, hheader, putFields_pixels, serializeWriter, h.colors_eq]

/-- Settles O23: the expansion writes the fields of the Image to a new writer, and `BSW.FIN` ends as `FRM.SER` does. -/
theorem frmSerIsItsCommandSequence : Obligations.FrmSerIsItsCommandSequence := by
  intro s ha hv h
  refine ⟨_, exec_serialize_of_image (.inl rfl) ha hv, ?run, ⟨_, rfl, by simp⟩⟩
  have hwrites := runAll_bswWrites_finish (s := { s with w := Writer.fresh }) ha rfl (imageFields_fit h)
  rw [putFields_imageFields h] at hwrites
  have hfin := exec_bswFin_of_opened (s := { s with w := serializeWriter config s.img }.finish .ok) ha
    (serializeWriter_mode config s.img)
  rw [serializeCommands_eq, runAll_cons (exec_bswInit_of_clear ha), runAll_append hwrites, runAll_singleton hfin]
  rfl

/-- A byte is the field of its eight bits (20_memory R54). -/
theorem fieldAt_byte (buf : List Byte) (a : Nat) : fieldAt buf (8 * a) 8 = (buf.getD a 0).toNat := by
  apply Nat.eq_of_testBit_eq
  intro j
  rw [testBit_fieldAt]
  by_cases hj : j < 8
  · rw [sbit, show (8 * a + 8 - 1 - j) / 8 = a by omega, show 7 - (8 * a + 8 - 1 - j) % 8 = j by omega]
    simp [hj, BitVec.getLsbD]
  · have hlt := (buf.getD a 0).isLt
    simp only [hj, decide_false, Bool.false_and]
    exact (Nat.testBit_lt_two_pow (Nat.lt_of_lt_of_le hlt (Nat.pow_le_pow_right (by decide) (by omega)))).symm

/-- A field inside another (30_encoding R84). -/
theorem fieldAt_inside (buf : List Byte) (c k m n : Nat) :
    fieldAt buf (c + k) m = fieldAt buf c (k + m + n) / 2 ^ n % 2 ^ m := by
  rw [fieldAt_add buf c (k + m) n, fieldAt_add buf c k m, Nat.mul_comm _ (2 ^ n),
    Nat.mul_add_div (Nat.two_pow_pos n), Nat.div_eq_of_lt (fieldAt_lt _ _ _), Nat.add_zero,
    Nat.mul_add_mod_of_lt (fieldAt_lt _ _ _)]

/-- The first eight bytes are those of the field they make. -/
theorem take_eight_eq {buf : List Byte} (h : 8 ≤ buf.length) :
    buf.take 8 = (List.range 8).map fun a => BitVec.ofNat 8 (fieldAt buf 0 64 / 2 ^ (56 - 8 * a)) := by
  refine List.ext_getElem (by simp [h]) fun a ha _ => BitVec.eq_of_toNat_eq ?_
  have ha8 : a < 8 := by simp at ha; omega
  have hbyte := fieldAt_byte buf a
  rw [← Nat.zero_add (8 * a), fieldAt_inside buf 0 (8 * a) 8 (56 - 8 * a), show 8 * a + 8 + (56 - 8 * a) = 64 by omega]
    at hbyte
  simpa [show a < buf.length by omega] using hbyte.symm

/-- Settles O24: the bytes of the header are fields inside its fields, and those are `serialize_header`. -/
theorem serializedHeaderBytes : Obligations.SerializedHeaderBytes := by
  intro img h
  obtain ⟨hmagic, hwidth, hheight, hr, hg, hb⟩ := serialize_header config h
  have hlen := le_bitlen_serialize config h
  have hhdr := le_headerBits config
  have h12 := fieldAt_byte (serialize config img) 12
  have h13 := fieldAt_byte (serialize config img) 13
  have hpad := fieldAt_lt (serialize config img) 108 4
  rw [fieldAt_add _ _ 4 4] at h12 h13
  simp only [Nat.reduceMul, Nat.reduceAdd, Nat.reducePow, hr, hg, hb] at h12 h13 hpad
  refine ⟨?magic, hwidth, hheight, by omega, by omega⟩
  rw [take_eight_eq (by rw [bitlen] at hlen; omega), hmagic]
  decide

end Sys2Proof.Machine
end

section
/-! PROOFS. `FRM.DES` of a stream that the host made: good, cut off, or with more after it (43 R174 to R180). -/

namespace Sys2Proof.Machine

/-! ## Deserializing a stream of the host's (43 R174 to R177, R180) -/

/-- A stream with a good header and all of it there. -/
theorem goodHeader_of_hasHeader {buf : List Byte} (h : HasHeader buf) :
    GoodHeader config buf ∧ headerBits config ≤ bitlen buf := by
  obtain ⟨⟨⟨-, hmagic⟩, -, hwidth, hheight⟩, hlen, hr, hg, hb⟩ := h
  refine ⟨⟨hmagic, dimensionsLegal_eq_true.mpr ?dims, Descriptor.legal_eq_true.mpr ?widths⟩, ?all⟩
  case dims =>
    rw [declaredImage_width_toNat, declaredImage_height_toNat]
    omega
  case widths =>
    rw [declaredImage_r_toNat, declaredImage_g_toNat, declaredImage_b_toNat]
    exact ⟨hr, hg, hb⟩
  case all =>
    have hhdr : headerBits config = 108 := rfl
    rw [bitlen]
    omega

/-- The stream length that the header declares is that of the declared Image (30_encoding R86). -/
theorem declaredBits_eq (buf : List Byte) :
    declaredBits buf = headerBits config + (declaredImage config buf).pixelDataBits := by
  simp only [declaredBits, Image.pixelDataBits, declaredImage_width_toNat, declaredImage_height_toNat,
    declaredImage_r_toNat, declaredImage_g_toNat, declaredImage_b_toNat]
  rfl

/-- Settles O26: with a good header and every declared bit there, `FRM.DES` makes the declared Image. -/
theorem frmDesReadsTheDeclaredImage : Obligations.FrmDesReadsTheDeclaredImage := by
  intro s ha hheader hle
  obtain ⟨hgood, -⟩ := goodHeader_of_hasHeader hheader
  rw [declaredBits_eq] at hle
  have hd := deserialize_of_le hgood hle
  refine ⟨_, exec_frmDes_of_ok ha hd, ?frame, deserialize_image_wf hd, declaredImage_width_toNat _ _,
    declaredImage_height_toNat _ _, declaredImage_r_toNat _ _, declaredImage_g_toNat _ _, declaredImage_b_toNat _ _,
    fun i p hp => ?pixel⟩
  case frame =>
    rw [declaredBits_eq]
    rfl
  case pixel =>
    obtain rfl := declaredImage_pixelAt _ _ hp
    exact ⟨rfl, rfl, rfl⟩

/-- The first `n` bytes hold the first `8 * n` bits. -/
theorem sbit_take {buf : List Byte} {n k : Nat} (h : k < bitlen (buf.take n)) : sbit (buf.take n) k = sbit buf k := by
  have hk : k / 8 < n := by
    rw [bitlen, List.length_take] at h
    omega
  rw [sbit, sbit, List.getD_eq_getElem?_getD, List.getD_eq_getElem?_getD, List.getElem?_take_of_lt hk]

/-- A proper start of a serialized Image ends before its last pixel bit. -/
theorem bitlen_take_lt {c : Config} {img : Image} {n : Nat} (h : img.Wf) (hn : n < (serialize c img).length) :
    bitlen ((serialize c img).take n) < headerBits c + img.pixelDataBits := by
  rw [bitlen, List.length_take]
  rw [serialize_length h, bytesFor] at hn
  omega

/-- Settles O32: too few pixel bits after a good header fail, and a proper start of a serialized Image agrees with it as
far as it goes, which is not far enough. -/
theorem truncatedStreamFails : Obligations.TruncatedStreamFails := by
  refine ⟨fun s ha hheader hs => ?short, fun s img n ha h hn hin => ?start⟩
  case short =>
    obtain ⟨hgood, hb⟩ := goodHeader_of_hasHeader hheader
    rw [declaredBits_eq] at hs
    obtain ⟨r, hd⟩ := deserialize_of_short hgood hb hs
    exact ⟨_, exec_frmDes_of_error ha hd, rfl⟩
  case start =>
    have hreads := deserialize_reads_of_agree (deserialize_serialize config h)
      (buf' := (serialize config img).take n) fun j _ hj => sbit_take hj
    obtain ⟨m, -, hd⟩ := hreads.2 (by simpa using bitlen_take_lt h hn)
    rw [← hin] at hd
    exact ⟨_, exec_frmDes_of_error ha hd, rfl⟩

/-- Settles O28: a successful `FRM.DES` has read the header and the pixel data of the Image that it made
(`deserialize_of_ok`), and makes the same of every buffer with these bits (`deserialize_reads_of_agree`). -/
theorem frmDesIgnoresWhatFollows : Obligations.FrmDesIgnoresWhatFollows := by
  intro s u t ha hu h ht hle hbits
  obtain ⟨-, hd⟩ := deserialize_of_succeeding ha h ht
  obtain ⟨-, hr⟩ := deserialize_of_ok hd
  have hcur : t.r.cur = headerBits config + t.img.pixelDataBits := congrArg Reader.cur hr
  rw [hr] at hd
  rw [hcur] at hle hbits
  have hreads := deserialize_reads_of_agree hd fun j hj _ => hbits j hj
  have hd' := hreads.1 (by simpa [bitlen] using hle)
  exact ⟨hcur, _, exec_frmDes_of_ok hu hd', State.finish_succeeding _ .ok, rfl, by simp [hcur]⟩

/-- A header failure leaves the cursor where 43 R176 says; a truncated header is cut off in one of its fields. -/
theorem HeaderFailure.cursor {buf : List Byte} {k : Nat} {f : Failure} (h : HeaderFailure config buf k f)
    (hk : k ≤ bitlen buf) :
    (f = .magicMismatch → k = 64) ∧ (f = .invalidDimensions → k = 96) ∧ (f = .invalidQuantization → k = 108) ∧
      (f = .truncatedData → ∃ n, LayoutField buf k n ∧ bitlen buf < k + n) := by
  cases h with
  | magic | dimensions | quantization => simp [headerBits, config, hdrPadBits]
  | truncated k n hfield hshort =>
    have hpad : (k, n) ≠ (108, hdrPadBits config.hdrPad) := by
      rintro heq
      obtain ⟨rfl, rfl⟩ := Prod.mk.inj heq
      exact absurd hk (Nat.not_le.mpr hshort)
    refine ⟨by simp, by simp, by simp, fun _ => ⟨n, .inl ?_, hshort⟩⟩
    simpa [hpad] using hfield

/-- The fields of the declared pixels are fields of the layout (30_encoding R85). -/
theorem layoutField_of_pixelSlots {buf : List Byte} {i k n : Nat}
    (hi : i < pixelCount (declaredImage config buf).width (declaredImage config buf).height)
    (h : (k, n) ∈ pixelSlots (declaredImage config buf).q
      (headerBits config + i * (declaredImage config buf).q.pixelBits)) : LayoutField buf k n := by
  simp only [pixelSlots, pixelCount, Descriptor.pixelBits, declaredImage_width_toNat, declaredImage_height_toNat,
    declaredImage_r_toNat, declaredImage_g_toNat, declaredImage_b_toNat] at hi h
  exact .inr ⟨i, hi, h⟩

/-- Settles O27: a deserialize that failed met a failure of the header or was cut off in a pixel
(`deserialize_error`), its reader within the buffer (`deserialize_reader`). -/
theorem frmDesFailureKeepsTheImage : Obligations.FrmDesFailureKeepsTheImage := by
  refine ⟨fun s t f ha h hf => ?failed, fun s t ha h ht => ?succeeded⟩
  case failed =>
    obtain ⟨hd, ht⟩ := deserialize_of_failing ha h hf
    obtain ⟨hwf, hbuf, hbound⟩ := deserialize_reader config s.inBuf
    rw [hd] at hwf hbuf hbound
    have hcur : t.r.cur ≤ bitlen s.inBuf := hbuf ▸ hwf
    refine ⟨?frame, ?cursor⟩
    case frame =>
      have hr : t.r = { buf := s.inBuf, cur := t.r.cur, bound := true } := by rw [← hbuf, ← hbound]
      rw [← hr]
      exact ht
    case cursor =>
      obtain hheader | ⟨i, hi, rfl, n, hslot, hshort⟩ := deserialize_error hd
      · obtain ⟨hmagic, hdims, hq, htrunc⟩ := hheader.cursor hcur
        refine ⟨hmagic, hdims, hq, fun he => ?_⟩
        obtain ⟨n, hfield, hshort⟩ := htrunc he
        exact ⟨n, hfield, hcur, hshort⟩
      · exact ⟨by simp, by simp, by simp, fun _ => ⟨n, layoutField_of_pixelSlots hi hslot, hcur, hbuf ▸ hshort⟩⟩
  case succeeded =>
    obtain ⟨hvalid, hd⟩ := deserialize_of_succeeding ha h ht
    exact ⟨hvalid, deserialize_image_wf hd⟩

end Sys2Proof.Machine
end

section
/-! PROOFS. Image construction and the views of the pixels (44 R200 to R203). -/

namespace Sys2Proof

/-- The word of `IMG.NEW` written flat is the word of its fields (30_encoding R90, R92). -/
theorem append_imageField_eq_mk (op a : Byte) (width height : Dim) (r g b : Byte) :
    (op ++ a ++ 0#8 ++ width ++ height ++ r ++ g ++ b : CmdWord) =
      CmdWord.mk op a (0#8 ++ width ++ height ++ r ++ g ++ b) := by
  have h1 : (op ++ a ++ 0#8 ++ width : BitVec 40) = (op ++ a : BitVec 16) ++ (0#8 ++ width : BitVec 24) :=
    BitVec.append_assoc
  have h2 : ((op ++ a : BitVec 16) ++ (0#8 ++ width : BitVec 24) ++ height : BitVec 56) =
      (op ++ a : BitVec 16) ++ (0#8 ++ width ++ height : BitVec 40) := BitVec.append_assoc
  have h3 : ((op ++ a : BitVec 16) ++ (0#8 ++ width ++ height : BitVec 40) ++ r : BitVec 64) =
      (op ++ a : BitVec 16) ++ (0#8 ++ width ++ height ++ r : BitVec 48) := BitVec.append_assoc
  have h4 : ((op ++ a : BitVec 16) ++ (0#8 ++ width ++ height ++ r : BitVec 48) ++ g : BitVec 72) =
      (op ++ a : BitVec 16) ++ (0#8 ++ width ++ height ++ r ++ g : BitVec 56) := BitVec.append_assoc
  rw [h1, h2, h3, h4]
  exact BitVec.append_assoc

end Sys2Proof

namespace Sys2Proof.Machine

/-! ## The numbering of a pixel list (44 R203) -/

/-- Numbering from `i` on pairs the pixel at `k` with the coordinates of `i + k`. -/
theorem locate_eq_mapIdx (width i : Nat) (ps : List Rgb) :
    locate width i ps = ps.mapIdx fun k p => ((i + k) % width, (i + k) / width, p) := by
  induction ps generalizing i with
  | nil => rfl
  | cons p ps ih => simp only [locate, ih, List.mapIdx_cons, Nat.add_zero, Nat.add_assoc, Nat.add_comm 1]

/-- A well-formed Image has one pixel per position (10_state R27). -/
theorem Image.Wf.pix_length {img : Image} (h : img.Wf) : img.pix.length = img.width.toNat * img.height.toNat := by
  obtain ⟨-, -, -, hpix⟩ := h
  exact hpix

theorem Image.Wf.pixels_eq {img : Image} (h : img.Wf) :
    img.pixels = img.pix.mapIdx fun i p => (i % img.width.toNat, i / img.width.toNat, p) := by
  simp only [Image.pixels, h.colors_eq, locate_eq_mapIdx, Nat.zero_add]

theorem Image.Wf.pixels_length {img : Image} (h : img.Wf) :
    img.pixels.length = img.width.toNat * img.height.toNat := by
  rw [h.pixels_eq, List.length_mapIdx, h.pix_length]

/-- `x` is below the width, `y` below the height. -/
theorem Image.Wf.pixels_bounded {img : Image} (h : img.Wf) :
    ∀ e ∈ img.pixels, e.1 < img.width.toNat ∧ e.2.1 < img.height.toNat := by
  intro e he
  rw [h.pixels_eq] at he
  obtain ⟨i, hi, rfl⟩ := List.mem_mapIdx.mp he
  rw [h.pix_length] at hi
  obtain ⟨hwidth, -⟩ := h
  exact ⟨Nat.mod_lt _ hwidth, Nat.div_lt_of_lt_mul hi⟩

/-! ## The commands, one equation per end -/

section Commands
variable {s : State} {width height : Dim} {r g b : Byte}

/-- `IMG.NEW` has no contract check: it always has its effect (44 R200). -/
theorem exec_imgNew (ha : s.abortSet = false) :
    exec (.imgNew width height r g b) s = .next (effect s (.imgNew width height r g b)) :=
  exec_of_no_violation ha rfl

theorem effect_imgNew_of_dimension_zero (h : width.toNat = 0 ∨ height.toNat = 0) :
    effect s (.imgNew width height r g b) = s.failWith .invalidDimensions :=
  if_neg fun hdim => by have := dimensionsLegal_eq_true.mp hdim; omega

theorem effect_imgNew_of_channelWidth_gt (hdim : dimensionsLegal width height = true)
    (h : 8 < r.toNat ∨ 8 < g.toNat ∨ 8 < b.toNat) :
    effect s (.imgNew width height r g b) = s.failWith .invalidQuantization :=
  (if_pos hdim).trans (if_neg fun hq => by have := channelWidthsLegal_eq_true.mp hq; omega)

theorem effect_imgNew_of_count_ne (hdim : dimensionsLegal width height = true)
    (hq : channelWidthsLegal r g b = true) (h : s.pixin.length ≠ pixelCount width height) :
    effect s (.imgNew width height r g b) = s.failWith .pixelCountMismatch :=
  (if_pos hdim).trans ((if_pos hq).trans (if_neg h))

theorem effect_imgNew_of_legal (hdim : dimensionsLegal width height = true)
    (hq : channelWidthsLegal r g b = true) (h : s.pixin.length = pixelCount width height) :
    effect s (.imgNew width height r g b) =
      { s with
        img := { width := width, height := height, q := descriptorOf r g b, pix := s.pixin }
        imgValid := true }.finish .ok :=
  (if_pos hdim).trans ((if_pos hq).trans (if_pos h))

theorem exec_imgColors_of_image (ha : s.abortSet = false) (hv : s.imgValid = true) (h : s.img.Wf) :
    exec .imgColors s = .next (s.finish (.okColors s.img.pix)) := by
  rw [exec_of_no_violation ha (by simp [violation, hv]), effect, h.colors_eq]

theorem exec_imgPixels_of_image (ha : s.abortSet = false) (hv : s.imgValid = true) :
    exec .imgPixels s = .next (s.finish (.okPixels s.img.pixels)) := by
  rw [exec_of_no_violation ha (by simp [violation, hv]), effect]

/-- A view of no Image aborts (44 R202, R203). -/
theorem exec_view_of_noImage {i : Instr} (hi : i = .imgColors ∨ i = .imgPixels) (ha : s.abortSet = false)
    (hv : s.imgValid = false) : exec i s = .next (s.takeAbort .noImage) := by
  obtain rfl | rfl := hi <;> exact exec_of_violation ha (if_pos hv)

end Commands

/-- Settles O35: the entries are the indexed pixels of `Image.Wf.pixels_eq`, bounded by `Image.Wf.pixels_bounded`. -/
theorem imgPixelsReturnsTheTriples : Obligations.ImgPixelsReturnsTheTriples := by
  refine ⟨decode_eq_ok_iff.mpr rfl,
    fun s ha hv h => ⟨s.img.pixels, exec_imgPixels_of_image ha hv, h.pixels_length, fun i _ => ?entry, h.pixels_bounded⟩,
    fun s ha hv => exec_view_of_noImage (.inr rfl) ha hv⟩
  case entry => rw [h.pixels_eq, List.getElem?_mapIdx, Image.pixelAt]

/-- Settles O33: the effect of `IMG.NEW` at each of its three checks and past them; `descriptorOf` holds legal widths
(`descriptorOf_toNat`). -/
theorem imgNewStoresOrRefuses : Obligations.ImgNewStoresOrRefuses := by
  refine ⟨fun width height r g b => decode_eq_ok_iff.mpr (append_imageField_eq_mk 0x50 0 width height r g b).symm,
    fun width height r g b s ha => ?_⟩
  rw [exec_imgNew ha]
  refine ⟨fun h => ?dimensions, fun hw hh h => ?quantization, fun hw hh hr hg hb h => ?count,
    fun hw hh hr hg hb h => ?stored⟩
  case dimensions => exact congrArg _ (effect_imgNew_of_dimension_zero h)
  case quantization => exact congrArg _ (effect_imgNew_of_channelWidth_gt (dimensionsLegal_eq_true.mpr ⟨hw, hh⟩) h)
  case count =>
    exact congrArg _ (effect_imgNew_of_count_ne (dimensionsLegal_eq_true.mpr ⟨hw, hh⟩)
      (channelWidthsLegal_eq_true.mpr ⟨hr, hg, hb⟩) h)
  case stored =>
    have hq := channelWidthsLegal_eq_true.mpr ⟨hr, hg, hb⟩
    exact ⟨_, congrArg _ (effect_imgNew_of_legal (dimensionsLegal_eq_true.mpr ⟨hw, hh⟩) hq h), rfl,
      descriptorOf_toNat hq⟩

/-- Settles O34: in a well-formed Image the colors are all of `IMG.pix`. -/
theorem imgColorsReturnsThePixels : Obligations.ImgColorsReturnsThePixels := by
  exact ⟨decode_eq_ok_iff.mpr rfl, fun s ha hv h => ⟨exec_imgColors_of_image ha hv h, h.pix_length⟩,
    fun s ha hv => exec_view_of_noImage (.inl rfl) ha hv⟩

end Sys2Proof.Machine
end

section
/-! PROOFS. Exceptions: the first violation of a contract aborts; every failure a command can end in, when it does and
what it changes (60_exceptions R220 to R230). -/

namespace Sys2Proof.Machine

/-! ## Aborts (60_exceptions R227, R229) -/

/-- A command whose contract holds takes no abort and answers none. -/
theorem Ends.not_aborting {s t : State} {i : Instr} (h : Ends s i t) :
    t.abortSet = s.abortSet ∧ ∀ c, ¬ t.Aborting c := by
  cases h with
  | finish u hu hx => obtain ⟨-, -, habort⟩ := hu; cases hx <;> simp [habort]
  | value u hu v hi => obtain ⟨-, -, habort⟩ := hu; simp [habort]
  | bytes u bs hu hi => obtain ⟨-, -, habort⟩ := hu; simp [habort]
  | fail u hu f => obtain ⟨-, -, habort⟩ := hu; simp [habort]

/-- Settles O41: a violation is the abort taken (`exec_of_violation`), and no other end of a command is an abort
(`Ends.not_aborting`). -/
theorem commandAbortsExactlyOnViolation : Obligations.CommandAbortsExactlyOnViolation := by
  refine ⟨fun i s c ha hv => exec_of_violation ha hv, fun i s t ha hv h => ?clear,
    rfl, rfl, rfl, rfl, rfl, rfl, rfl, rfl⟩
  case clear =>
    obtain rfl := Host.Outcome.next.inj ((exec_of_no_violation ha hv).symm.trans h)
    obtain ⟨habort, hreply⟩ := (effect_ends s i).not_aborting
    exact ⟨habort.trans ha, hreply⟩

/-! ## Why a deserialize fails (43 R175; 60_exceptions R221, R222, R224, R225) -/

/-- The reasons for which a deserialize of `buf` fails, each where every test before it is passed. -/
inductive DeserializeFails (buf : List Byte) : Failure → Prop
  | magicShort (hlen : buf.length < 8) : DeserializeFails buf .truncatedData
  | magic (hlen : 8 ≤ buf.length) (hmagic : fieldAt buf 0 64 ≠ 0x67726E666C643432) : DeserializeFails buf .magicMismatch
  | dimensionsShort (hmagic : HasMagic buf) (hlen : buf.length < 12) : DeserializeFails buf .truncatedData
  | dimensions (hmagic : HasMagic buf) (hlen : 12 ≤ buf.length)
      (hzero : fieldAt buf 64 16 = 0 ∨ fieldAt buf 80 16 = 0) : DeserializeFails buf .invalidDimensions
  | descriptorShort (hdims : HasDimensions buf) (hlen : buf.length < 14) : DeserializeFails buf .truncatedData
  | quantization (hdims : HasDimensions buf) (hlen : 14 ≤ buf.length)
      (hwide : 8 < fieldAt buf 96 4 ∨ 8 < fieldAt buf 100 4 ∨ 8 < fieldAt buf 104 4) :
      DeserializeFails buf .invalidQuantization
  | pixelsShort (hheader : HasHeader buf) (hbits : bitlen buf < declaredBits buf) : DeserializeFails buf .truncatedData

section Deserialize
variable {buf : List Byte}

/-- The dimension check of a deserialize, on the fields of the buffer (30_encoding R82). -/
theorem declaredDimensions_legal :
    dimensionsLegal (declaredImage config buf).width (declaredImage config buf).height = true ↔
      fieldAt buf 64 16 ≠ 0 ∧ fieldAt buf 80 16 ≠ 0 := by
  rw [dimensionsLegal_eq_true, declaredImage_width_toNat, declaredImage_height_toNat, Nat.one_le_iff_ne_zero,
    Nat.one_le_iff_ne_zero]

/-- The descriptor check of a deserialize, on the fields of the buffer (30_encoding R83). -/
theorem declaredDescriptor_legal :
    (declaredImage config buf).q.legal = true ↔
      fieldAt buf 96 4 ≤ 8 ∧ fieldAt buf 100 4 ≤ 8 ∧ fieldAt buf 104 4 ≤ 8 := by
  rw [Descriptor.legal_eq_true, declaredImage_r_toNat, declaredImage_g_toNat, declaredImage_b_toNat]

/-- A good magic passes the tests of the magic field. -/
theorem HasMagic.passes (h : HasMagic buf) : 64 ≤ bitlen buf ∧ ¬ fieldAt buf 0 64 ≠ config.magic.toNat := by
  obtain ⟨hlen, hmagic⟩ := h
  exact ⟨by rw [bitlen]; omega, not_not.mpr hmagic⟩

/-- Good dimensions pass the tests of the magic field and of the two dimensions. -/
theorem HasDimensions.passes (h : HasDimensions buf) :
    96 ≤ bitlen buf ∧ ¬ fieldAt buf 0 64 ≠ config.magic.toNat ∧
      ¬ dimensionsLegal (declaredImage config buf).width (declaredImage config buf).height = false := by
  obtain ⟨hmagic, hlen, hnonzero⟩ := h
  exact ⟨by rw [bitlen]; omega, (HasMagic.passes hmagic).2, by simpa using declaredDimensions_legal.mpr hnonzero⟩

/-- Each reason makes a deserialize fail as it says. -/
theorem deserialize_of_fails {f : Failure} (h : DeserializeFails buf f) :
    ∃ r, deserialize config buf = (r, .error f) := by
  have hlength : bitlen buf = 8 * buf.length := rfl
  have hheader : headerBits config = 108 := rfl
  cases h with
  | magicShort hlen => exact ⟨_, by rw [deserialize_eq, if_pos (by omega)]⟩
  | magic hlen hmagic =>
    exact ⟨_, by rw [deserialize_eq, if_neg (by omega), if_pos (show _ ≠ config.magic.toNat from hmagic)]⟩
  | dimensionsShort hmagic hlen =>
    obtain ⟨h64, hm⟩ := HasMagic.passes hmagic
    rw [deserialize_eq, if_neg (by omega), if_neg hm]
    by_cases h80 : bitlen buf < 80
    · exact ⟨_, if_pos h80⟩
    · exact ⟨_, by rw [if_neg h80, if_pos (by omega)]⟩
  | dimensions hmagic hlen hzero =>
    obtain ⟨-, hm⟩ := HasMagic.passes hmagic
    have hillegal : dimensionsLegal (declaredImage config buf).width (declaredImage config buf).height = false := by
      rw [← Bool.not_eq_true, declaredDimensions_legal]
      omega
    exact ⟨_, by
      rw [deserialize_eq, if_neg (by omega), if_neg hm, if_neg (by omega), if_neg (by omega), if_pos hillegal]⟩
  | descriptorShort hdims hlen =>
    obtain ⟨h96, hm, hd⟩ := HasDimensions.passes hdims
    rw [deserialize_eq, if_neg (by omega), if_neg hm, if_neg (by omega), if_neg (by omega), if_neg hd]
    by_cases h100 : bitlen buf < 100
    · exact ⟨_, if_pos h100⟩
    by_cases h104 : bitlen buf < 104
    · exact ⟨_, by rw [if_neg h100, if_pos h104]⟩
    · exact ⟨_, by rw [if_neg h100, if_neg h104, if_pos (by omega)]⟩
  | quantization hdims hlen hwide =>
    obtain ⟨-, hm, hd⟩ := HasDimensions.passes hdims
    have hillegal : (declaredImage config buf).q.legal = false := by
      rw [← Bool.not_eq_true, declaredDescriptor_legal]
      omega
    exact ⟨_, by
      rw [deserialize_eq, if_neg (by omega), if_neg hm, if_neg (by omega), if_neg (by omega), if_neg hd,
        if_neg (by omega), if_neg (by omega), if_neg (by omega), if_neg (by omega), if_pos hillegal]⟩
  | pixelsShort hall hbits =>
    obtain ⟨hgood, hb⟩ := goodHeader_of_hasHeader hall
    exact deserialize_of_short hgood hb (declaredBits_eq buf ▸ hbits)

/-- A stream that no reason fails has its whole header and all the pixel bits that it declares. -/
theorem deserializeFails_or_complete (buf : List Byte) :
    (∃ f, DeserializeFails buf f) ∨ (HasHeader buf ∧ declaredBits buf ≤ bitlen buf) := by
  by_cases hlen8 : buf.length < 8
  · exact .inl ⟨_, .magicShort hlen8⟩
  by_cases hmagic : fieldAt buf 0 64 = 0x67726E666C643432
  case neg => exact .inl ⟨_, .magic (Nat.le_of_not_lt hlen8) hmagic⟩
  have hasMagic : HasMagic buf := ⟨Nat.le_of_not_lt hlen8, hmagic⟩
  by_cases hlen12 : buf.length < 12
  · exact .inl ⟨_, .dimensionsShort hasMagic hlen12⟩
  by_cases hzero : fieldAt buf 64 16 = 0 ∨ fieldAt buf 80 16 = 0
  · exact .inl ⟨_, .dimensions hasMagic (Nat.le_of_not_lt hlen12) hzero⟩
  have hasDimensions : HasDimensions buf := ⟨hasMagic, Nat.le_of_not_lt hlen12, not_or.mp hzero⟩
  by_cases hlen14 : buf.length < 14
  · exact .inl ⟨_, .descriptorShort hasDimensions hlen14⟩
  by_cases hwide : 8 < fieldAt buf 96 4 ∨ 8 < fieldAt buf 100 4 ∨ 8 < fieldAt buf 104 4
  · exact .inl ⟨_, .quantization hasDimensions (Nat.le_of_not_lt hlen14) hwide⟩
  have hasHeader : HasHeader buf := ⟨hasDimensions, Nat.le_of_not_lt hlen14, by omega⟩
  by_cases hbits : bitlen buf < declaredBits buf
  · exact .inl ⟨_, .pixelsShort hasHeader hbits⟩
  · exact .inr ⟨hasHeader, Nat.le_of_not_lt hbits⟩

/-- A deserialize fails for one of the reasons: without any it makes the declared Image (`deserialize_of_le`). -/
theorem deserializeFails_of_error {r : Reader} {f : Failure} (h : deserialize config buf = (r, .error f)) :
    DeserializeFails buf f := by
  obtain ⟨f', hfails⟩ | ⟨hheader, hbits⟩ := deserializeFails_or_complete buf
  · obtain ⟨r', hd⟩ := deserialize_of_fails hfails
    obtain ⟨-, hf⟩ := Prod.mk.inj (hd.symm.trans h)
    exact Except.error.inj hf ▸ hfails
  · obtain ⟨hgood, -⟩ := goodHeader_of_hasHeader hheader
    rw [declaredBits_eq] at hbits
    exact absurd ((deserialize_of_le hgood hbits).symm.trans h) (by simp)

end Deserialize

/-! ## Why a command fails (60_exceptions R221 to R226, R230) -/

/-- The reasons for which a command begun in `s` with no abort standing fails. -/
inductive CommandFails (s : State) : Instr → Failure → Prop
  | bsrRead {w : Byte} (hbound : s.r.bound = true) (h1 : 1 ≤ w.toNat) (h64 : w.toNat ≤ 64)
      (hshort : bitlen s.r.buf < s.r.cur + w.toNat) : CommandFails s (.bsrRead w) .truncatedData
  | qNew {r g b : Byte} (hwide : 8 < r.toNat ∨ 8 < g.toNat ∨ 8 < b.toNat) :
      CommandFails s (.qNew r g b) .invalidQuantization
  | imgDimensions {width height : Dim} {r g b : Byte} (hzero : width.toNat = 0 ∨ height.toNat = 0) :
      CommandFails s (.imgNew width height r g b) .invalidDimensions
  | imgQuantization {width height : Dim} {r g b : Byte} (hwidth : 1 ≤ width.toNat) (hheight : 1 ≤ height.toNat)
      (hwide : 8 < r.toNat ∨ 8 < g.toNat ∨ 8 < b.toNat) :
      CommandFails s (.imgNew width height r g b) .invalidQuantization
  | imgCount {width height : Dim} {r g b : Byte} (hwidth : 1 ≤ width.toNat) (hheight : 1 ≤ height.toNat)
      (hr : r.toNat ≤ 8) (hg : g.toNat ≤ 8) (hb : b.toNat ≤ 8)
      (hcount : s.pixin.length ≠ width.toNat * height.toNat) :
      CommandFails s (.imgNew width height r g b) .pixelCountMismatch
  | frmDes {f : Failure} (h : DeserializeFails s.inBuf f) : CommandFails s .frmDes f

section Failing
variable {i : Instr} {s t : State} {f : Failure}

/-- What a failure changes: `FRM.DES` moves the reader, and the rest is `State.failWith` (60_exceptions R230). -/
theorem exec_of_fails (ha : s.abortSet = false) (h : CommandFails s i f) :
    ∃ r, exec i s = .next ({ s with r := r }.failWith f) ∧ (i ≠ .frmDes → r = s.r) := by
  cases h with
  | bsrRead hbound h1 h64 hshort => exact ⟨s.r, exec_bsrRead_of_short ha hbound h1 h64 hshort, fun _ => rfl⟩
  | qNew hwide =>
    exact ⟨s.r, exec_qNew_of_illegal ha (by rw [channelWidthsLegal_eq_true]; omega), fun _ => rfl⟩
  | imgDimensions hzero =>
    exact ⟨s.r, (exec_imgNew ha).trans (congrArg _ (effect_imgNew_of_dimension_zero hzero)), fun _ => rfl⟩
  | imgQuantization hwidth hheight hwide =>
    have hdim := dimensionsLegal_eq_true.mpr ⟨hwidth, hheight⟩
    exact ⟨s.r, (exec_imgNew ha).trans (congrArg _ (effect_imgNew_of_channelWidth_gt hdim hwide)), fun _ => rfl⟩
  | imgCount hwidth hheight hr hg hb hcount =>
    have hdim := dimensionsLegal_eq_true.mpr ⟨hwidth, hheight⟩
    have hq := channelWidthsLegal_eq_true.mpr ⟨hr, hg, hb⟩
    exact ⟨s.r, (exec_imgNew ha).trans (congrArg _ (effect_imgNew_of_count_ne hdim hq hcount)), fun _ => rfl⟩
  | frmDes h =>
    obtain ⟨r, hd⟩ := deserialize_of_fails h
    exact ⟨r, exec_frmDes_of_error ha hd, fun hne => absurd rfl hne⟩

/-- An `IMG.NEW` that fails met one of its three checks (44 R200). -/
theorem fails_of_imgNew_failing {width height : Dim} {r g b : Byte}
    (hf : (effect s (.imgNew width height r g b)).Failing f) : CommandFails s (.imgNew width height r g b) f := by
  simp only [effect] at hf
  split_ifs at hf with hdim hq hcount
  · simp [State.Failing] at hf
  · obtain ⟨hwidth, hheight⟩ := dimensionsLegal_eq_true.mp hdim
    obtain ⟨hr, hg, hb⟩ := channelWidthsLegal_eq_true.mp hq
    obtain rfl : Failure.pixelCountMismatch = f := by simpa [State.Failing] using hf
    exact .imgCount hwidth hheight hr hg hb hcount
  · obtain ⟨hwidth, hheight⟩ := dimensionsLegal_eq_true.mp hdim
    rw [channelWidthsLegal_eq_true] at hq
    obtain rfl : Failure.invalidQuantization = f := by simpa [State.Failing] using hf
    exact .imgQuantization hwidth hheight (by omega)
  · rw [dimensionsLegal_eq_true] at hdim
    obtain rfl : Failure.invalidDimensions = f := by simpa [State.Failing] using hf
    exact .imgDimensions (by omega)

/-- A command that fails does so for one of the reasons. -/
theorem fails_of_failing (ha : s.abortSet = false) (h : exec i s = .next t) (hf : t.Failing f) :
    CommandFails s i f := by
  obtain ⟨hset, -⟩ | ⟨-, c, -, rfl⟩ | ⟨-, hv, rfl⟩ := exec_cases h
  · simp [ha] at hset
  · simp [State.Failing] at hf
  · cases i with
    | bsrRead w =>
      obtain ⟨hbound, h1, h64⟩ := violation_bsrRead_eq_none_iff.mp hv
      by_cases hshort : bitlen s.r.buf < s.r.cur + w.toNat
      · rw [effect_bsrRead_of_short hshort] at hf
        obtain rfl : Failure.truncatedData = f := by simpa [State.Failing] using hf
        exact .bsrRead hbound h1 h64 hshort
      · rw [effect_bsrRead_of_le (Nat.le_of_not_lt hshort)] at hf
        simp [State.Failing] at hf
    | qNew r g b =>
      by_cases hq : channelWidthsLegal r g b = true
      · simp [effect, hq, State.Failing] at hf
      · obtain rfl : Failure.invalidQuantization = f := by simpa [effect, hq, State.Failing] using hf
        rw [channelWidthsLegal_eq_true] at hq
        exact .qNew (by omega)
    | frmDes => exact .frmDes (deserializeFails_of_error (deserialize_of_failing ha h hf).1)
    | imgNew width height r g b => exact fails_of_imgNew_failing hf
    | _ => simp [effect, State.serializeImage, State.Failing] at hf

/-- Exactly when a command fails, and with what. -/
theorem failing_iff (ha : s.abortSet = false) (h : exec i s = .next t) : t.Failing f ↔ CommandFails s i f := by
  refine ⟨fails_of_failing ha h, fun hfails => ?_⟩
  obtain ⟨r, ht, -⟩ := exec_of_fails ha hfails
  obtain rfl := Host.Outcome.next.inj (ht.symm.trans h)
  rfl

/-- Under a standing abort no command fails: it answers the abort (60_exceptions R229). -/
theorem not_failing_of_aborted (ha : s.abortSet = true) (h : exec i s = .next t) : ¬ t.Failing f := by
  obtain rfl := Host.Outcome.next.inj ((exec_aborted i ha).symm.trans h)
  simp [State.Failing]

end Failing

/-! ## Each failure of the table (60_exceptions R221 to R226) -/

/-- Settles O44: of the reasons for which a command fails, the two of a dimension that is 0. -/
theorem invalidDimensionsExactly : Obligations.InvalidDimensionsExactly := by
  intro i s t ha h
  rw [failing_iff ha h]
  constructor
  · intro hfails
    cases hfails with
    | imgDimensions hzero => exact .inl ⟨_, _, _, _, _, rfl, hzero⟩
    | frmDes hdes =>
      cases hdes with
      | dimensions hmagic hlen hzero => exact .inr ⟨rfl, hmagic, hlen, hzero⟩
  · rintro (⟨width, height, r, g, b, rfl, hzero⟩ | ⟨rfl, hmagic, hlen, hzero⟩)
    · exact .imgDimensions hzero
    · exact .frmDes (.dimensions hmagic hlen hzero)

/-- Settles O45: of the reasons for which a command fails, the three of a channel width above 8. -/
theorem invalidQuantizationExactly : Obligations.InvalidQuantizationExactly := by
  intro i s t ha h
  rw [failing_iff ha h]
  constructor
  · intro hfails
    cases hfails with
    | qNew hwide => exact .inl ⟨_, _, _, rfl, hwide⟩
    | imgQuantization hwidth hheight hwide => exact .inr (.inl ⟨_, _, _, _, _, rfl, hwidth, hheight, hwide⟩)
    | frmDes hdes =>
      cases hdes with
      | quantization hdims hlen hwide => exact .inr (.inr ⟨rfl, hdims, hlen, hwide⟩)
  · rintro (⟨r, g, b, rfl, hwide⟩ | ⟨width, height, r, g, b, rfl, hwidth, hheight, hwide⟩ | ⟨rfl, hdims, hlen, hwide⟩)
    · exact .qNew hwide
    · exact .imgQuantization hwidth hheight hwide
    · exact .frmDes (.quantization hdims hlen hwide)

/-- Settles O46: of the reasons for which a command fails, the one of the pixel count; no deserialize has it. -/
theorem pixelCountMismatchExactly : Obligations.PixelCountMismatchExactly := by
  intro i s t ha h
  rw [failing_iff ha h]
  constructor
  · intro hfails
    cases hfails with
    | imgCount hwidth hheight hr hg hb hcount =>
      exact ⟨_, _, _, _, _, rfl, hwidth, hheight, hr, hg, hb, hcount⟩
    | frmDes hdes => nomatch hdes
  · rintro ⟨width, height, r, g, b, rfl, hwidth, hheight, hr, hg, hb, hcount⟩
    exact .imgCount hwidth hheight hr hg hb hcount

/-- Settles O47: of the reasons for which a command fails, the one of the magic. -/
theorem magicMismatchExactly : Obligations.MagicMismatchExactly := by
  intro i s t ha h
  rw [failing_iff ha h]
  constructor
  · intro hfails
    cases hfails with
    | frmDes hdes =>
      cases hdes with
      | magic hlen hmagic => exact ⟨rfl, hlen, hmagic⟩
  · rintro ⟨rfl, hlen, hmagic⟩
    exact .frmDes (.magic hlen hmagic)

/-- Settles O48: of the reasons for which a command fails, the five of a stream that ends too early. -/
theorem truncatedDataExactly : Obligations.TruncatedDataExactly := by
  intro i s t ha h
  rw [failing_iff ha h]
  constructor
  · intro hfails
    cases hfails with
    | bsrRead hbound h1 h64 hshort => exact .inl ⟨_, rfl, hbound, h1, h64, hshort⟩
    | frmDes hdes =>
      refine .inr ⟨rfl, ?_⟩
      cases hdes with
      | magicShort hlen => exact .inl hlen
      | dimensionsShort hmagic hlen => exact .inr (.inl ⟨hmagic, hlen⟩)
      | descriptorShort hdims hlen => exact .inr (.inr (.inl ⟨hdims, hlen⟩))
      | pixelsShort hheader hbits => exact .inr (.inr (.inr ⟨hheader, hbits⟩))
  · rintro (⟨w, rfl, hbound, h1, h64, hshort⟩ |
      ⟨rfl, hlen | ⟨hmagic, hlen⟩ | ⟨hdims, hlen⟩ | ⟨hheader, hbits⟩⟩)
    · exact .bsrRead hbound h1 h64 hshort
    · exact .frmDes (.magicShort hlen)
    · exact .frmDes (.dimensionsShort hmagic hlen)
    · exact .frmDes (.descriptorShort hdims hlen)
    · exact .frmDes (.pixelsShort hheader hbits)

/-- No reason for a failure raises a collaborator's (60_exceptions R226). -/
theorem CommandFails.ne_collaborator {i : Instr} {s : State} {f : Failure} (h : CommandFails s i f) :
    f ≠ .ioError ∧ f ≠ .unsupportedFormat := by
  cases h with
  | bsrRead | qNew | imgDimensions | imgQuantization | imgCount => simp
  | frmDes hdes => cases hdes <;> simp

/-- Settles O49: under an abort no command fails, and without one none for a collaborator's failure. -/
theorem collaboratorFailuresNeverRaised : Obligations.CollaboratorFailuresNeverRaised := by
  refine ⟨fun i s t h => ?_, rfl, rfl⟩
  cases ha : s.abortSet with
  | true => exact ⟨not_failing_of_aborted ha h, not_failing_of_aborted ha h⟩
  | false =>
    exact ⟨fun hf => (fails_of_failing ha h hf).ne_collaborator.1 rfl,
      fun hf => (fails_of_failing ha h hf).ne_collaborator.2 rfl⟩

/-- The four commands that can fail (60_exceptions R230, R238). -/
theorem CommandFails.command {i : Instr} {s : State} {f : Failure} (h : CommandFails s i f) :
    (∃ r g b, i = .qNew r g b) ∨ (∃ width height r g b, i = .imgNew width height r g b) ∨ i = .frmDes ∨
      ∃ w, i = .bsrRead w := by
  cases h with
  | bsrRead => exact .inr (.inr (.inr ⟨_, rfl⟩))
  | qNew => exact .inl ⟨_, _, _, rfl⟩
  | imgDimensions | imgQuantization | imgCount => exact .inr (.inl ⟨_, _, _, _, _, rfl⟩)
  | frmDes => exact .inr (.inr (.inl rfl))

/-- Settles O50: the reason for which the command failed says the state it left (`exec_of_fails`) and the command. -/
theorem whatAFailureChanges : Obligations.WhatAFailureChanges := by
  intro i s t f ha h hf
  have hfails := fails_of_failing ha h hf
  obtain ⟨r, ht, hreader⟩ := exec_of_fails ha hfails
  obtain rfl := Host.Outcome.next.inj (ht.symm.trans h)
  exact ⟨rfl, hreader, hfails.command⟩

end Sys2Proof.Machine
end

section
/-! PROOFS. Reset and hazards: the state after reset, a command with legal operands, and the completion of every command
(70_reset_and_hazards R261, R263, R266, R272). -/

namespace Sys2Proof.Machine

/-! ## A command with legal operands (70 R266; 30_encoding R91 to R93) -/

section LegalOperands
variable {s : State} {i : Instr} {w bits value index : Byte} {v : U64}

theorem legalOperands_bswWrite_iff :
    (Instr.bswWrite w v).wellFormed = true ↔ (1 ≤ w.toNat ∧ w.toNat ≤ 64) ∧ v.toNat < 2 ^ w.toNat := by
  simp [Instr.wellFormed, Instr.legalWidth, Instr.legalValue]

theorem legalOperands_bsrRead_iff : (Instr.bsrRead w).wellFormed = true ↔ 1 ≤ w.toNat ∧ w.toNat ≤ 64 := by
  simp [Instr.wellFormed, Instr.legalWidth]

theorem legalOperands_qEnc_iff : (Instr.qEnc bits value).wellFormed = true ↔ bits.toNat ≤ 8 := by
  simp [Instr.wellFormed, Instr.legalBits]

theorem legalOperands_qDec_iff :
    (Instr.qDec bits index).wellFormed = true ↔ bits.toNat ≤ 8 ∧ index.toNat < 2 ^ bits.toNat := by
  simp [Instr.wellFormed, Instr.legalBits, Instr.legalIndex]

/-- With legal operands a `BSW.WRITE` is left with the check of the writer's mode (40 R111). -/
theorem violation_bswWrite_of_legal (h : (Instr.bswWrite w v).wellFormed = true) :
    violation s (.bswWrite w v) = if s.w.mode = .consumed then some .writerConsumed else none := by
  obtain ⟨⟨h1, h64⟩, hv⟩ := legalOperands_bswWrite_iff.mp h
  rw [violation, if_neg (by omega : ¬ (w.toNat < 1 ∨ 64 < w.toNat)), if_neg (Nat.not_le.mpr hv)]

/-- With a legal width a `BSR.READ` is left with the check that a buffer is bound (41 R133). -/
theorem violation_bsrRead_of_legal (h : (Instr.bsrRead w).wellFormed = true) :
    violation s (.bsrRead w) = if s.r.bound = false then some .readerUnbound else none := by
  obtain ⟨h1, h64⟩ := legalOperands_bsrRead_iff.mp h
  rw [violation, if_neg (by omega : ¬ (w.toNat < 1 ∨ 64 < w.toNat))]

theorem violation_qEnc_of_legal (h : (Instr.qEnc bits value).wellFormed = true) :
    violation s (.qEnc bits value) = none :=
  if_neg (Nat.not_lt.mpr (legalOperands_qEnc_iff.mp h))

theorem violation_qDec_of_legal (h : (Instr.qDec bits index).wellFormed = true) :
    violation s (.qDec bits index) = none := by
  obtain ⟨hbits, hindex⟩ := legalOperands_qDec_iff.mp h
  rw [violation, if_neg (Nat.not_lt.mpr hbits), if_neg (Nat.not_le.mpr hindex)]

/-- A guard on the state alone violates with its own cause. -/
theorem eq_of_guard {bad : Prop} [Decidable bad] {c d : AbortCause} (h : (if bad then some d else none) = some c) :
    c = d :=
  (Option.some.inj (Option.ite_none_right_eq_some.mp h).2).symm

/-- With legal operands only the state can violate a contract: a consumed writer, a reader with no buffer, no Image. -/
theorem violation_of_legalOperands {c : AbortCause} (hi : i.wellFormed = true) (hv : violation s i = some c) :
    c = .writerConsumed ∨ c = .readerUnbound ∨ c = .noImage := by
  cases i with
  | bswWrite w v => exact .inl (eq_of_guard ((violation_bswWrite_of_legal hi).symm.trans hv))
  | bswFin | bswPos => exact .inl (eq_of_guard hv)
  | bsrRead w => exact .inr (.inl (eq_of_guard ((violation_bsrRead_of_legal hi).symm.trans hv)))
  | bsrPos => exact .inr (.inl (eq_of_guard hv))
  | frmSer | imgColors | imgPixels | imgBytes => exact .inr (.inr (eq_of_guard hv))
  | qEnc bits value => simp [violation_qEnc_of_legal hi] at hv
  | qDec bits index => simp [violation_qDec_of_legal hi] at hv
  | bswInit | bsrBind | qNew | frmDes | imgNew => simp [violation] at hv

end LegalOperands

/-- Settles O43: the abort a command answers is its first violation (`exec_cases`, `Ends.not_aborting`), and legal
operands leave the violations of the state only (`violation_of_legalOperands`). -/
theorem legalOperandsAreNotAborted : Obligations.LegalOperandsAreNotAborted := by
  intro i s t c hi ha h hc
  obtain ⟨hset, -⟩ | ⟨-, d, hv, rfl⟩ | ⟨-, -, rfl⟩ := exec_cases h
  · simp [ha] at hset
  · obtain rfl : d = c := by simpa [State.Aborting] using hc
    exact violation_of_legalOperands hi hv
  · exact absurd hc ((effect_ends s i).not_aborting.2 c)

/-! ## Every command completes (70 R272) -/

/-- A command is never a fault and never refused. -/
theorem exec_answers_next (i : Instr) (s : State) : ∃ t, exec i s = .next t := by
  cases ha : s.abortSet with
  | true => exact ⟨_, exec_aborted i ha⟩
  | false => exact ⟨_, exec_clear i ha⟩

/-- No command writes the host's list of later actions. -/
theorem exec_keeps_host {i : Instr} {s t : State} (h : exec i s = .next t) : t.host = s.host := by
  obtain ⟨-, rfl⟩ | ⟨-, c, -, rfl⟩ | ⟨-, -, rfl⟩ := exec_cases h
  · rfl
  · rfl
  · cases i with
    | bsrRead w => obtain ⟨-, h⟩ | h := effect_bsrRead_cases s w <;> exact h ▸ rfl
    | qNew r g b => obtain ⟨-, h⟩ | h := effect_qNew_cases s r g b <;> exact h ▸ rfl
    | frmDes => obtain ⟨_, -, h⟩ | ⟨_, h⟩ := effect_frmDes_cases s <;> exact h ▸ rfl
    | imgNew width height r g b =>
      obtain ⟨_, -, h⟩ | ⟨_, h⟩ := effect_imgNew_cases s width height r g b <;> exact h ▸ rfl
    | bswInit | bswWrite | bswFin | bswPos | bsrBind | bsrPos | qEnc | qDec | frmSer | imgColors | imgPixels
    | imgBytes => rfl

/-- However a command ends, it hands the host a result. -/
theorem exec_hands_result {i : Instr} {s t : State} (h : exec i s = .next t) : ∃ x, t.reply = some (.result x) := by
  obtain ⟨-, rfl⟩ | ⟨-, c, rfl⟩ | ⟨-, hends⟩ := exec_ends h
  · exact ⟨_, rfl⟩
  · exact ⟨_, rfl⟩
  · cases hends with
    | finish | value | bytes | fail => exact ⟨_, rfl⟩

/-- Settles O52: a command always answers a next state (`exec_answers_next`), whose host list is the one it began with
and whose reply is a result. -/
theorem everyCommandCompletes : Obligations.EveryCommandCompletes := by
  intro i s
  obtain ⟨t, h⟩ := exec_answers_next i s
  exact ⟨t, h, exec_keeps_host h, exec_hands_result h⟩

/-! ## The state after reset (70 R261, R263) -/

/-- Power-on leaves what a reset of that state leaves: it is a fixed point of the reset event. -/
theorem applyReset_powerOn : State.reset.applyReset = State.reset := rfl

/-- Settles O54: power-on (`applyReset_powerOn`) and a reset event (`step_reset`) alike leave what `applyReset` does,
which writes every part but the host's staging buffers and list. -/
theorem resetLeavesAnEmptyBlock : Obligations.ResetLeavesAnEmptyBlock := by
  refine ⟨fun t ht => ?empty, fun s rest hhost => ⟨_, step_reset hhost, rfl, rfl⟩⟩
  case empty =>
    obtain ⟨u, rfl⟩ : ∃ u : State, t = u.applyReset := by
      obtain rfl | ⟨s, rest, hhost, h⟩ := ht
      · exact ⟨_, applyReset_powerOn.symm⟩
      · exact ⟨_, (Host.Outcome.next.inj ((step_reset hhost).symm.trans h)).symm⟩
    exact ⟨rfl, rfl, rfl, rfl, rfl, rfl, rfl, rfl⟩

end Sys2Proof.Machine
end

section
/-! PROOFS. Words of the spec's test vectors (95_test_vectors sections 2.7 and 3). -/

namespace Sys2Proof

/-- `BSR.READ` has no operand in `d`: a word with its opcode and a bit there is illegal (30_encoding R91, R96). -/
theorem decode_bsrRead_word_of_ne_zero {a : Byte} {d : U64} (hd : d ≠ 0) :
    decode (CmdWord.mk 0x21 a d) = .error .mustBeZero := by
  rw [decode_mk]
  exact if_neg (by simpa using hd)

/-- The opcode 0x22 stands for no command, whatever its operand fields hold (30_encoding R94, R96). -/
theorem decode_op22_word (a : Byte) (d : U64) : decode (CmdWord.mk 0x22 a d) = .error .unknownOp := by
  rw [decode_mk]
  rfl

/-- Settles O60: each legal word is the encoder's word of its command (`decode_eq_ok_iff`); of the two illegal ones, one
is a `BSR.READ` with a bit in its must-be-zero field, the other has an opcode that the map does not hold. -/
theorem decodesTheSpecsWords : Obligations.DecodesTheSpecsWords := by
  refine ⟨?bswWrite, ?bsrRead, ?mustBeZero, ?qNew, ?qEnc, ?imgNew, ?unknownOp, ?frmSer, ?frmDes, ?imgBytes⟩
  case mustBeZero => exact decode_bsrRead_word_of_ne_zero (a := 12) (d := 1) (by decide)
  case unknownOp => exact decode_op22_word 0 0
  case bswWrite | bsrRead | qNew | qEnc | imgNew | frmSer | frmDes | imgBytes => exact decode_eq_ok_iff.mpr rfl

end Sys2Proof
end
